-- ==== Sys2Proof/Word.lean ====
section
/-!
DEFINITION. The word types of the core (10_state.md R20, R23, R24; 30_encoding.md R80).
-/

namespace Sys2Proof

/-- An 8-bit unsigned byte: a memory byte, a general register, a timer. -/
abbrev Byte := BitVec 8

/-- A 16-bit unsigned word: an instruction word, `I`, `PC`, a stack entry. -/
abbrev Word := BitVec 16

/-- A general register's number, 0 to 15 (10_state.md R20). -/
abbrev RegIdx := Fin 16

end Sys2Proof
end

