-- ==== Sys2Proof/Config.lean ====
section
/-!
DEFINITION. What the hardware fixes (00_scope.md R10), the parameters the model takes as arguments (R11) and the free
values. The parameters' hardware values are `hardwareParams` of Machine/Params.lean.
-/

namespace Sys2Proof

/-- `ILLEGAL_POLICY`: what an unrecognised word does (40_cycle.md R104, R105). -/
inductive IllegalPolicy where
  /-- The reference no-op that leaves `PC` unchanged. -/
  | stall
  /-- The word raises `IllegalInstruction`. -/
  | fault
  deriving DecidableEq, Repr

/-- `MEM_SIZE` (R10): addresses 0x000 to 0xFFF. -/
abbrev Config.memSize : Nat := 0x1000

/-- `PROG_BASE` (R10), where an image is loaded. -/
abbrev Config.progBase : Nat := 0x200

/-- `MAX_IMAGE` (R10): 4096 - 512 bytes. -/
abbrev Config.maxImage : Nat := 3584

/-- `PC_RESET` (R10). -/
abbrev Config.pcReset : Word := 0x200#16

/-- `FONT_SIZE` (R10): 16 glyphs of 5 bytes, at 0x000 to 0x04F. -/
abbrev Config.fontSize : Nat := 80

/-- The stack entries there is room for: the 256 of R10. How many of them a machine uses is the parameter
`STACK_DEPTH` (R11; log entry 17). -/
abbrev Config.stackCapacity : Nat := 256

/-- `FB_H` (R10). -/
abbrev Config.fbRows : Nat := 32

/-- `FB_W` (R10). -/
abbrev Config.fbCols : Nat := 64

/-- `NUM_KEYS` (R10). -/
abbrev Config.numKeys : Nat := 16

/-- `GLYPH_STRIDE` (R10): bytes of one glyph. -/
abbrev Config.glyphStride : Nat := 5

/-- The glyph table, a value of the parameter `FONT` (R11; 20_memory.md R53). -/
abbrev Font := Vector Byte Config.fontSize

/-- The parameters of R11 that the core's rules read, as plain data: every definition that reads one takes it from
here, so a claim holds for every value unless it names one. `TONE_MS`, OPEN and a function, is `Config.toneMs`;
`TICK_PERIOD` and `CYCLE_PERIOD` are timing only. -/
structure Params where
  /-- `FONT` (20_memory.md R53). -/
  font : Font
  /-- `ILLEGAL_POLICY` (40_cycle.md R104, R105). -/
  illegalPolicy : IllegalPolicy
  /-- `STACK_DEPTH` (10_state.md R25; 90_conflicts.md C7), up to the 256 entries there is room for. -/
  stackDepth : Fin (Config.stackCapacity + 1)
  deriving DecidableEq, Repr

/-- The byte the random source answers to the k-th draw (60_exceptions.md R224): a free value, any byte.
DESIGN CHOICE of form: log entry 4. -/
opaque Config.randomByte : Nat → Byte

/-- The tick input of the k-th cycle that no pending host move describes (60_exceptions.md R223, R230):
a free value. DESIGN CHOICE of form: log entry 3. -/
opaque Config.tickRequest : Nat → Bool

/-- `TONE_MS`, OPEN (00_scope.md R11; 60_exceptions.md R216): the tone's duration in milliseconds as a function of
the value `ST` held before the tick. A free value: log entry 5. -/
opaque Config.toneMs : Byte → Nat

end Sys2Proof
end

