-- ==== Sys2Proof/Syntax.lean ====
section
/-!
DEFINITION. The instructions: one constructor per row of spec/opcode_table.json (30_encoding.md R85), in the
table's order. Fields are those the instruction uses (R81, R82): `x` and `y` register numbers, `kk` an 8-bit
immediate, `n` a row count 0 to 15, and `nnn` an address held at the machine's 16 bits (`zext_16(nnn)`, R82),
which WellFormed.lean bounds to the 12 bits an encoding can carry. A nibble the decoder ignores (R86) is no field.
-/

namespace Sys2Proof

/-- The 34 instructions (00_scope.md R4). -/
inductive Instr where
  /-- CLS, 43_display.md R170. -/
  | cls
  /-- RET, 41_control.md R121. -/
  | ret
  /-- JP nnn, R120. -/
  | jp (nnn : Word)
  /-- CALL nnn, R122. -/
  | call (nnn : Word)
  /-- SE Vx, kk, R124. -/
  | seImm (x : RegIdx) (kk : Byte)
  /-- SNE Vx, kk, R125. -/
  | sneImm (x : RegIdx) (kk : Byte)
  /-- SE Vx, Vy, R126. -/
  | seReg (x y : RegIdx)
  /-- LD Vx, kk, 42_alu.md R140. -/
  | ldImm (x : RegIdx) (kk : Byte)
  /-- ADD Vx, kk, R141. -/
  | addImm (x : RegIdx) (kk : Byte)
  /-- LD Vx, Vy, R142. -/
  | ldReg (x y : RegIdx)
  /-- OR Vx, Vy, R143. -/
  | orReg (x y : RegIdx)
  /-- AND Vx, Vy, R144. -/
  | andReg (x y : RegIdx)
  /-- XOR Vx, Vy, R145. -/
  | xorReg (x y : RegIdx)
  /-- ADD Vx, Vy, R146. -/
  | addReg (x y : RegIdx)
  /-- SUB Vx, Vy, R147. -/
  | subReg (x y : RegIdx)
  /-- SHR Vx, R148. -/
  | shr (x : RegIdx)
  /-- SUBN Vx, Vy, R149. -/
  | subnReg (x y : RegIdx)
  /-- SHL Vx, R150. -/
  | shl (x : RegIdx)
  /-- SNE Vx, Vy, 41_control.md R127. -/
  | sneReg (x y : RegIdx)
  /-- LD I, nnn, 45_index_memory.md R190. -/
  | ldI (nnn : Word)
  /-- JP V0, nnn, 41_control.md R128. -/
  | jpV0 (nnn : Word)
  /-- RND Vx, kk, 42_alu.md R151. -/
  | rnd (x : RegIdx) (kk : Byte)
  /-- DRW Vx, Vy, n, 43_display.md R171. -/
  | drw (x y : RegIdx) (n : Fin 16)
  /-- SKP Vx, 44_keys_timers.md R180. -/
  | skp (x : RegIdx)
  /-- SKNP Vx, R181. -/
  | sknp (x : RegIdx)
  /-- LD Vx, DT, R182. -/
  | ldVxDt (x : RegIdx)
  /-- LD Vx, K, R183. -/
  | ldVxK (x : RegIdx)
  /-- LD DT, Vx, R184. -/
  | ldDtVx (x : RegIdx)
  /-- LD ST, Vx, R185. -/
  | ldStVx (x : RegIdx)
  /-- ADD I, Vx, 45_index_memory.md R191. -/
  | addI (x : RegIdx)
  /-- LD F, Vx, R192. -/
  | ldF (x : RegIdx)
  /-- LD B, Vx, R193. -/
  | ldB (x : RegIdx)
  /-- LD [I], Vx, R194. -/
  | storeBlock (x : RegIdx)
  /-- LD Vx, [I], R195. -/
  | loadBlock (x : RegIdx)
  deriving DecidableEq, Repr

end Sys2Proof
end

