-- ==== Sys2Proof/WellFormed.lean ====
section
/-!
DEFINITION. When an instruction is one the encoding can carry. The types already bound `x`, `y` (16 registers),
`kk` (8 bits) and `n` (0 to 15); what is left to check is that `nnn` is a 12-bit address (30_encoding.md R82).
-/

namespace Sys2Proof

/-- `nnn` fits in `w[11:0]` (30_encoding.md R81, R82). -/
def addr12 (nnn : Word) : Bool := decide (nnn.toNat < Config.memSize)

/-- The instruction can be encoded: its 12-bit address, where it has one, is below 0x1000. -/
def Instr.wellFormed : Instr → Bool
  | .jp nnn => addr12 nnn
  | .call nnn => addr12 nnn
  | .ldI nnn => addr12 nnn
  | .jpV0 nnn => addr12 nnn
  | .cls | .ret => true
  | .seImm _ _ | .sneImm _ _ | .ldImm _ _ | .addImm _ _ | .rnd _ _ => true
  | .seReg _ _ | .sneReg _ _ | .ldReg _ _ | .orReg _ _ | .andReg _ _ | .xorReg _ _ => true
  | .addReg _ _ | .subReg _ _ | .subnReg _ _ => true
  | .shr _ | .shl _ => true
  | .drw _ _ _ => true
  | .skp _ | .sknp _ | .ldVxDt _ | .ldVxK _ | .ldDtVx _ | .ldStVx _ => true
  | .addI _ | .ldF _ | .ldB _ | .storeBlock _ | .loadBlock _ => true

end Sys2Proof
end

