-- ==== Sys2Proof/Decode.lean ====
section
/-!
DEFINITION. Field extraction (30_encoding.md R81, R82), dispatch (R83, R84), the opcode map (R85), the unrecognised
words (R87), and the encoder written from the same map. Byte order: 20_memory.md R55 (big-endian).
-/

namespace Sys2Proof

/-- Why bytes are no instruction: each names the class of 30_encoding.md R87 that has no handler for the word. -/
inductive DecodeReject where
  /-- Fewer than the two bytes of a word (R80). -/
  | truncated
  /-- Class 0x0, `kk` neither 0xE0 nor 0xEE. -/
  | class0 (w : Word)
  /-- Class 0x8, `n` none of the nine variants. -/
  | class8 (w : Word)
  /-- Class 0xE, `kk` neither 0x9E nor 0xA1. -/
  | classE (w : Word)
  /-- Class 0xF, `kk` none of the nine variants. -/
  | classF (w : Word)
  deriving DecidableEq, Repr

/-! ## Fields (R81) -/

/-- `w >> 12`, the dispatch key (R83). -/
def classOf (w : Word) : BitVec 4 := w.extractLsb' 12 4

/-- `addr12 = w & 0x0FFF`, zero-extended (R82). -/
def nnnOf (w : Word) : Word := w &&& 0x0FFF#16

/-- `imm8 = w & 0x00FF`. -/
def kkOf (w : Word) : Byte := w.extractLsb' 0 8

/-- `regX = (w >> 8) & 0xF`. -/
def xOf (w : Word) : RegIdx := ⟨(w.extractLsb' 8 4).toNat, (w.extractLsb' 8 4).isLt⟩

/-- `regY = (w >> 4) & 0xF`. -/
def yOf (w : Word) : RegIdx := ⟨(w.extractLsb' 4 4).toNat, (w.extractLsb' 4 4).isLt⟩

/-- `nib4 = w & 0xF`. -/
def nOf (w : Word) : Fin 16 := ⟨(w.extractLsb' 0 4).toNat, (w.extractLsb' 0 4).isLt⟩

/-! ## Byte order (20_memory.md R55) -/

/-- The word whose byte at the lower address is `hi`. -/
def wordOfBytes (hi lo : Byte) : Word := hi ++ lo

/-- `w[15:8]`, the byte at the lower address. -/
def highByte (w : Word) : Byte := w.extractLsb' 8 8

/-- `w[7:0]`, the byte at the higher address. -/
def lowByte (w : Word) : Byte := w.extractLsb' 0 8

/-! ## Dispatch (R83, R84, R85) -/

/-- Class 0x0 sub-selects on `kk`; `w[11:8]` is not examined (R86). -/
def decodeClass0 (w : Word) : Except DecodeReject Instr :=
  match (kkOf w).toNat with
  | 0xE0 => .ok .cls
  | 0xEE => .ok .ret
  | _ => .error (.class0 w)

/-- Class 0x8 sub-selects on `n`; `y` is decoded and unused in SHR and SHL (R86). -/
def decodeClass8 (w : Word) : Except DecodeReject Instr :=
  match (nOf w).val with
  | 0x0 => .ok (.ldReg (xOf w) (yOf w))
  | 0x1 => .ok (.orReg (xOf w) (yOf w))
  | 0x2 => .ok (.andReg (xOf w) (yOf w))
  | 0x3 => .ok (.xorReg (xOf w) (yOf w))
  | 0x4 => .ok (.addReg (xOf w) (yOf w))
  | 0x5 => .ok (.subReg (xOf w) (yOf w))
  | 0x6 => .ok (.shr (xOf w))
  | 0x7 => .ok (.subnReg (xOf w) (yOf w))
  | 0xE => .ok (.shl (xOf w))
  | _ => .error (.class8 w)

/-- Class 0xE sub-selects on `kk`. -/
def decodeClassE (w : Word) : Except DecodeReject Instr :=
  match (kkOf w).toNat with
  | 0x9E => .ok (.skp (xOf w))
  | 0xA1 => .ok (.sknp (xOf w))
  | _ => .error (.classE w)

/-- Class 0xF sub-selects on `kk`: nine variants (90_conflicts.md C2). -/
def decodeClassF (w : Word) : Except DecodeReject Instr :=
  match (kkOf w).toNat with
  | 0x07 => .ok (.ldVxDt (xOf w))
  | 0x0A => .ok (.ldVxK (xOf w))
  | 0x15 => .ok (.ldDtVx (xOf w))
  | 0x18 => .ok (.ldStVx (xOf w))
  | 0x1E => .ok (.addI (xOf w))
  | 0x29 => .ok (.ldF (xOf w))
  | 0x33 => .ok (.ldB (xOf w))
  | 0x55 => .ok (.storeBlock (xOf w))
  | 0x65 => .ok (.loadBlock (xOf w))
  | _ => .error (.classF w)

/-- The instruction a word selects, or the name of its rejection (R85, R87; 40_cycle.md R103). -/
def decodeWord (w : Word) : Except DecodeReject Instr :=
  match (classOf w).toNat with
  | 0x0 => decodeClass0 w
  | 0x1 => .ok (.jp (nnnOf w))
  | 0x2 => .ok (.call (nnnOf w))
  | 0x3 => .ok (.seImm (xOf w) (kkOf w))
  | 0x4 => .ok (.sneImm (xOf w) (kkOf w))
  | 0x5 => .ok (.seReg (xOf w) (yOf w))
  | 0x6 => .ok (.ldImm (xOf w) (kkOf w))
  | 0x7 => .ok (.addImm (xOf w) (kkOf w))
  | 0x8 => decodeClass8 w
  | 0x9 => .ok (.sneReg (xOf w) (yOf w))
  | 0xA => .ok (.ldI (nnnOf w))
  | 0xB => .ok (.jpV0 (nnnOf w))
  | 0xC => .ok (.rnd (xOf w) (kkOf w))
  | 0xD => .ok (.drw (xOf w) (yOf w) (nOf w))
  | 0xE => decodeClassE w
  | _ => decodeClassF w

/-- Decoding of bytes in memory order: one instruction and the bytes after it. -/
def decode : List Byte → Except DecodeReject (Instr × List Byte)
  | hi :: lo :: rest => (decodeWord (wordOfBytes hi lo)).map (fun i => (i, rest))
  | _ => .error .truncated

/-! ## The encoder (R85) -/

/-- Shape `c nnn` (R81): the class in bits 15..12 and the low 12 bits of the address. -/
def wordCNnn (c : Nat) (nnn : Word) : Word := BitVec.ofNat 16 (c * 0x1000 + nnn.toNat % 0x1000)

/-- Shape `c x kk` (R81): the class, a register in bits 11..8, a byte in bits 7..0. -/
def wordCXkk (c : Nat) (x : RegIdx) (kk : Byte) : Word := BitVec.ofNat 16 (c * 0x1000 + x.val * 0x100 + kk.toNat)

/-- Shape `c x y n` (R81): the class, registers in bits 11..8 and 7..4, a nibble in bits 3..0. -/
def wordCXyn (c : Nat) (x y n : Fin 16) : Word :=
  BitVec.ofNat 16 (c * 0x1000 + x.val * 0x100 + y.val * 0x10 + n.val)

/-- The word of an instruction; a nibble the decoder ignores (R86) is written 0. -/
def encode : Instr → Word
  | .cls => 0x00E0#16
  | .ret => 0x00EE#16
  | .jp nnn => wordCNnn 0x1 nnn
  | .call nnn => wordCNnn 0x2 nnn
  | .seImm x kk => wordCXkk 0x3 x kk
  | .sneImm x kk => wordCXkk 0x4 x kk
  | .seReg x y => wordCXyn 0x5 x y 0x0
  | .ldImm x kk => wordCXkk 0x6 x kk
  | .addImm x kk => wordCXkk 0x7 x kk
  | .ldReg x y => wordCXyn 0x8 x y 0x0
  | .orReg x y => wordCXyn 0x8 x y 0x1
  | .andReg x y => wordCXyn 0x8 x y 0x2
  | .xorReg x y => wordCXyn 0x8 x y 0x3
  | .addReg x y => wordCXyn 0x8 x y 0x4
  | .subReg x y => wordCXyn 0x8 x y 0x5
  | .shr x => wordCXyn 0x8 x 0 0x6
  | .subnReg x y => wordCXyn 0x8 x y 0x7
  | .shl x => wordCXyn 0x8 x 0 0xE
  | .sneReg x y => wordCXyn 0x9 x y 0x0
  | .ldI nnn => wordCNnn 0xA nnn
  | .jpV0 nnn => wordCNnn 0xB nnn
  | .rnd x kk => wordCXkk 0xC x kk
  | .drw x y n => wordCXyn 0xD x y n
  | .skp x => wordCXkk 0xE x 0x9E#8
  | .sknp x => wordCXkk 0xE x 0xA1#8
  | .ldVxDt x => wordCXkk 0xF x 0x07#8
  | .ldVxK x => wordCXkk 0xF x 0x0A#8
  | .ldDtVx x => wordCXkk 0xF x 0x15#8
  | .ldStVx x => wordCXkk 0xF x 0x18#8
  | .addI x => wordCXkk 0xF x 0x1E#8
  | .ldF x => wordCXkk 0xF x 0x29#8
  | .ldB x => wordCXkk 0xF x 0x33#8
  | .storeBlock x => wordCXkk 0xF x 0x55#8
  | .loadBlock x => wordCXkk 0xF x 0x65#8

/-- An instruction's bytes in memory order. -/
def encodeBytes (i : Instr) : List Byte := [highByte (encode i), lowByte (encode i)]

/-! ## The opcode map as masks (R85) -/

/-- The column "mask" of the instruction's row. -/
def Instr.mask : Instr → Word
  | .cls | .ret => 0xF0FF#16
  | .jp _ | .call _ | .ldI _ | .jpV0 _ => 0xF000#16
  | .seImm _ _ | .sneImm _ _ | .ldImm _ _ | .addImm _ _ | .rnd _ _ => 0xF000#16
  | .seReg _ _ | .sneReg _ _ => 0xF000#16
  | .drw _ _ _ => 0xF000#16
  | .ldReg _ _ | .orReg _ _ | .andReg _ _ | .xorReg _ _ => 0xF00F#16
  | .addReg _ _ | .subReg _ _ | .subnReg _ _ | .shr _ | .shl _ => 0xF00F#16
  | .skp _ | .sknp _ | .ldVxDt _ | .ldVxK _ | .ldDtVx _ | .ldStVx _ => 0xF0FF#16
  | .addI _ | .ldF _ | .ldB _ | .storeBlock _ | .loadBlock _ => 0xF0FF#16

/-- The column "match" of the instruction's row. -/
def Instr.pattern : Instr → Word
  | .cls => 0x00E0#16
  | .ret => 0x00EE#16
  | .jp _ => 0x1000#16
  | .call _ => 0x2000#16
  | .seImm _ _ => 0x3000#16
  | .sneImm _ _ => 0x4000#16
  | .seReg _ _ => 0x5000#16
  | .ldImm _ _ => 0x6000#16
  | .addImm _ _ => 0x7000#16
  | .ldReg _ _ => 0x8000#16
  | .orReg _ _ => 0x8001#16
  | .andReg _ _ => 0x8002#16
  | .xorReg _ _ => 0x8003#16
  | .addReg _ _ => 0x8004#16
  | .subReg _ _ => 0x8005#16
  | .shr _ => 0x8006#16
  | .subnReg _ _ => 0x8007#16
  | .shl _ => 0x800E#16
  | .sneReg _ _ => 0x9000#16
  | .ldI _ => 0xA000#16
  | .jpV0 _ => 0xB000#16
  | .rnd _ _ => 0xC000#16
  | .drw _ _ _ => 0xD000#16
  | .skp _ => 0xE09E#16
  | .sknp _ => 0xE0A1#16
  | .ldVxDt _ => 0xF007#16
  | .ldVxK _ => 0xF00A#16
  | .ldDtVx _ => 0xF015#16
  | .ldStVx _ => 0xF018#16
  | .addI _ => 0xF01E#16
  | .ldF _ => 0xF029#16
  | .ldB _ => 0xF033#16
  | .storeBlock _ => 0xF055#16
  | .loadBlock _ => 0xF065#16

/-- The bits of the word that the instruction's pattern does not leave to `?` or to an unused `y` (R85, R86):
the bits of its mask and of the fields it uses. -/
def Instr.usedBits : Instr → Word
  | .cls | .ret => 0xF0FF#16
  | .seReg _ _ | .sneReg _ _ => 0xFFF0#16
  | .shr _ | .shl _ => 0xFF0F#16
  | .jp _ | .call _ | .ldI _ | .jpV0 _ => 0xFFFF#16
  | .seImm _ _ | .sneImm _ _ | .ldImm _ _ | .addImm _ _ | .rnd _ _ => 0xFFFF#16
  | .ldReg _ _ | .orReg _ _ | .andReg _ _ | .xorReg _ _ => 0xFFFF#16
  | .addReg _ _ | .subReg _ _ | .subnReg _ _ => 0xFFFF#16
  | .drw _ _ _ => 0xFFFF#16
  | .skp _ | .sknp _ | .ldVxDt _ | .ldVxK _ | .ldDtVx _ | .ldStVx _ => 0xFFFF#16
  | .addI _ | .ldF _ | .ldB _ | .storeBlock _ | .loadBlock _ => 0xFFFF#16

/-- The columns mask and match of 30_encoding.md R85, row by row in its order. -/
def opcodeRows : List (Word × Word) :=
  [(0xF0FF#16, 0x00E0#16), (0xF0FF#16, 0x00EE#16), (0xF000#16, 0x1000#16), (0xF000#16, 0x2000#16),
   (0xF000#16, 0x3000#16), (0xF000#16, 0x4000#16), (0xF000#16, 0x5000#16), (0xF000#16, 0x6000#16),
   (0xF000#16, 0x7000#16), (0xF00F#16, 0x8000#16), (0xF00F#16, 0x8001#16), (0xF00F#16, 0x8002#16)]
  ++
  [(0xF00F#16, 0x8003#16), (0xF00F#16, 0x8004#16), (0xF00F#16, 0x8005#16), (0xF00F#16, 0x8006#16),
   (0xF00F#16, 0x8007#16), (0xF00F#16, 0x800E#16), (0xF000#16, 0x9000#16), (0xF000#16, 0xA000#16),
   (0xF000#16, 0xB000#16), (0xF000#16, 0xC000#16), (0xF000#16, 0xD000#16)]
  ++
  [(0xF0FF#16, 0xE09E#16), (0xF0FF#16, 0xE0A1#16), (0xF0FF#16, 0xF007#16), (0xF0FF#16, 0xF00A#16),
   (0xF0FF#16, 0xF015#16), (0xF0FF#16, 0xF018#16), (0xF0FF#16, 0xF01E#16), (0xF0FF#16, 0xF029#16),
   (0xF0FF#16, 0xF033#16), (0xF0FF#16, 0xF055#16), (0xF0FF#16, 0xF065#16)]

/-! ## The host's question -/

/-- The word of the opcode table's numbering, laid out as its two bytes in memory. The table's rows are one word
of 16 bits; bits above `nbits` are 0. -/
def tableBytes (nbits w : Nat) : List Byte :=
  let word : Word := BitVec.ofNat 16 (w % 2 ^ nbits)
  [highByte word, lowByte word]

/-- What the decoder reads from a table word, or none where it refuses. -/
def decodeTableWord (nbits w : Nat) : Option Instr :=
  match decode (tableBytes nbits w) with
  | .ok (i, _) => some i
  | .error _ => none

end Sys2Proof
end

