-- ==== Sys2Proof/Machine/Params.lean ====
section
/-!
DEFINITION. The hardware's values of the parameters (00_scope.md R11). Only `State.reset` names them.
-/

namespace Sys2Proof.Machine

/-- The font bytes of 20_memory.md R53, digit 0 first.
PRESUMED by the spec (it takes the table from general knowledge): log entry 7. -/
def fontBytes : List Byte :=
  [0xF0, 0x90, 0x90, 0x90, 0xF0,  0x20, 0x60, 0x20, 0x20, 0x70,
   0xF0, 0x10, 0xF0, 0x80, 0xF0,  0xF0, 0x10, 0xF0, 0x10, 0xF0]
  ++
  [0x90, 0x90, 0xF0, 0x10, 0x10,  0xF0, 0x80, 0xF0, 0x10, 0xF0,
   0xF0, 0x80, 0xF0, 0x90, 0xF0,  0xF0, 0x10, 0x20, 0x40, 0x40]
  ++
  [0xF0, 0x90, 0xF0, 0x90, 0xF0,  0xF0, 0x90, 0xF0, 0x10, 0xF0,
   0xF0, 0x90, 0xF0, 0x90, 0x90,  0xE0, 0x90, 0xE0, 0x90, 0xE0]
  ++
  [0xF0, 0x80, 0x80, 0x80, 0xF0,  0xE0, 0x90, 0x90, 0x90, 0xE0,
   0xF0, 0x80, 0xF0, 0x80, 0xF0,  0xF0, 0x80, 0xF0, 0x80, 0x80]

/-- `FONT` at its hardware value (decision D23). -/
def fontTable : Font := ⟨⟨fontBytes⟩, rfl⟩

/-- The hardware: the standard font, `Stall` (decision D4), 256 stack entries (decision D17). -/
def hardwareParams : Params where
  font := fontTable
  illegalPolicy := .stall
  stackDepth := 256

end Sys2Proof.Machine
end

