-- ==== Sys2Proof/Machine/State.lean ====
section
/-!
DEFINITION. The machine's state as plain data (10_state.md), the host moves and port events it holds
(60_exceptions.md R220), the fault record (R200, R201), and the state after construction (10_state.md R37).
-/

namespace Sys2Proof.Machine

/-- Why the core halts (60_exceptions.md R200), each with the info R200 records. -/
inductive FaultCause where
  /-- Code 1: the first address at or above 0x1000 (20_memory.md R58). -/
  | addressOutOfRange (addr : Nat)
  /-- Code 2: a push on a full stack; `SP`. -/
  | stackOverflow (sp : Nat)
  /-- Code 3: a pop of an empty stack; `SP`. -/
  | stackUnderflow (sp : Nat)
  /-- Code 4: SKP or SKNP with a register above 15; that register's value. -/
  | keyIndexOutOfRange (k : Byte)
  /-- Code 5: an unrecognised word under `ILLEGAL_POLICY = Fault`; the word. -/
  | illegalInstruction (w : Word)
  deriving DecidableEq, Repr

/-- What a fault records (60_exceptions.md R201): the cause with its info, the `PC` of the instruction that faulted,
and the fetched word where the fault was raised after the fetch. -/
structure FaultRecord where
  cause : FaultCause
  pc : Word
  word : Option Word
  deriving DecidableEq, Repr

/-- `STATUS` (10_state.md R32). -/
inductive Status where
  | running
  | halted (record : FaultRecord)
  deriving DecidableEq, Repr

/-- The frame buffer: 32 rows of 64 pixels, row first (10_state.md R30). -/
abbrev FrameBuffer := Vector (Vector Bool Config.fbCols) Config.fbRows

/-- The memory: the bytes that differ from the reset contents, at strictly rising addresses. -/
abbrev Memory := List Host.Cell

/-- A move of the host at a port (60_exceptions.md R220). -/
inductive HostMove where
  /-- A cycle request with its tick input (R221, R223). -/
  | cycle (tick : Bool)
  /-- `key_down(k)` (R222); an index above 15 is refused. -/
  | keyDown (k : Nat)
  /-- `key_up(k)` (R222). -/
  | keyUp (k : Nat)
  /-- `load(image)` (70_reset_and_hazards.md R243 to R245); none is an unreadable source. -/
  | load (image : Option (List Byte))
  /-- A read of the status port (R227). -/
  | readStatus
  deriving DecidableEq, Repr

/-- What the core sends on its output ports, events and answers alike (60_exceptions.md R220). -/
inductive PortEvent where
  /-- `Frame(FB)` (R217, R225). -/
  | frame (fb : FrameBuffer)
  /-- `Tone(n_ms)` (R216, R226). -/
  | tone (ms : Nat)
  /-- The answer of a load: success or failure (R228). -/
  | loadAnswer (success : Bool)
  /-- The error of a key port for an index above 15 (R222). -/
  | keyError (k : Nat)
  /-- The answer of the status port (R227). -/
  | status (st : Status)
  deriving DecidableEq, Repr

/-- The whole state, with the parameters of the machine it is a state of. -/
structure State where
  /-- The machine's parameters (00_scope.md R11). They are configuration, no state (10_state.md R36): nothing writes
  them. They stand here because `exec` and `step` have no other argument to take them by: log entry 22. -/
  params : Params
  /-- `V[0]` to `V[15]` (10_state.md R20); `V[15]` is VF (R21). -/
  v : Vector Byte 16
  /-- The address register `I` (R23). -/
  i : Word
  /-- The program counter (R24). -/
  pc : Word
  /-- The stack pointer, 0 to 256: the entries in use (R25). -/
  sp : Fin (Config.stackCapacity + 1)
  /-- The call stack's entries (R25, R26). -/
  stack : Vector Word Config.stackCapacity
  /-- The delay timer `DT` (R27). -/
  dt : Byte
  /-- The sound timer `ST` (R28). -/
  st : Byte
  /-- The input latch `KEY` (R29). -/
  keys : Vector Bool Config.numKeys
  /-- The frame buffer `FB` (R30). -/
  fb : FrameBuffer
  /-- `DIRTY` (R31). -/
  dirty : Bool
  /-- `STATUS` (R32). -/
  status : Status
  /-- `MEM` (20_memory.md R50). -/
  mem : Memory
  /-- The host moves not yet taken, oldest first (60_exceptions.md R220, R229). The model's own: log entry 3. -/
  inbox : List HostMove
  /-- What the output ports have sent, oldest first. The model's own: log entry 6. -/
  emitted : List PortEvent
  /-- Bytes RND has drawn so far. The model's own: log entry 4. -/
  randDraws : Nat
  /-- Tick inputs drawn as free values so far. The model's own: log entry 3. -/
  tickDraws : Nat
  deriving DecidableEq, Repr

/-- The reasons an outcome `fault` could give: there is none. Every fault of 60_exceptions.md R200 has its entry
described by R205 and is taken: a next state with `STATUS = Halted(record)`. Nobody raises this type's (absent)
constructors, which is safe: no step can end in a fault (log entry 1). -/
inductive Fault where
  deriving DecidableEq, Repr

/-- The reasons an instruction could have no meaning. -/
inductive Refusal where
  /-- Raised only by an arm of `exec` whose instruction has no meaning yet; safe. No arm raises it now. -/
  | notModelled (mnemonic : String)
  deriving DecidableEq, Repr

/-- What a meaning answers. -/
abbrev Result := Host.Outcome State Fault Refusal

/-- A core of the given parameters right after construction (10_state.md R37; 70_reset_and_hazards.md R240, R241).
Memory lists nothing: its reset contents, the font and zero, are what an unlisted address reads as. The last four fields
are the model's own (log entries 3, 4 and 6). -/
def State.resetWith (p : Params) : State where
  params := p
  v := Vector.replicate 16 0#8
  i := 0#16
  pc := Config.pcReset
  sp := 0
  stack := Vector.replicate Config.stackCapacity 0#16
  dt := 0#8
  st := 0#8
  keys := Vector.replicate Config.numKeys false
  fb := Vector.replicate Config.fbRows (Vector.replicate Config.fbCols false)
  dirty := false
  status := .running
  mem := []
  inbox := []
  emitted := []
  randDraws := 0
  tickDraws := 0

/-- The hardware right after construction. -/
def State.reset : State := State.resetWith hardwareParams

end Sys2Proof.Machine
end

