-- ==== Sys2Proof/Machine/Ops.lean ====
section
/-!
DEFINITION. The named operations over memory, registers, the call stack and the frame buffer, the instruction fetch,
and taking a fault, which every meaning shares (10_state.md, 20_memory.md, 60_exceptions.md).
-/

namespace Sys2Proof.Machine

/-! ## Memory (20_memory.md) -/

/-- What an address that memory does not list reads as: the reset contents, `FONT` copied to 0x000..0x04F and zero
elsewhere (20_memory.md R51, R52; 10_state.md R37). -/
def memInit (f : Font) (a : Nat) : Byte := if h : a < Config.fontSize then f[a] else 0#8

/-- The byte at an address, without the bound check. -/
def memRead (f : Font) : Memory → Nat → Byte
  | [], a => memInit f a
  | (a', b) :: m, a => if a = a' then b else memRead f m a

/-- Put a byte in front of a memory, listing it only where it differs from the reset contents. -/
def memCons (f : Font) (a : Nat) (b : Byte) (m : Memory) : Memory :=
  if b = memInit f a then m else (a, b) :: m

/-- Store a byte at an address, without the bound check, keeping the canonical form. -/
def memWrite (f : Font) : Memory → Nat → Byte → Memory
  | [], a, b => memCons f a b []
  | (a', b') :: m, a, b =>
    if a < a' then memCons f a b ((a', b') :: m)
    else if a = a' then memCons f a b m
    else (a', b') :: memWrite f m a b

/-- The canonical form from an address upward: addresses strictly rising and below 0x1000, no entry equal to the
reset contents. -/
def memWfFrom (f : Font) (least : Nat) : Memory → Bool
  | [] => true
  | (a, b) :: m =>
    decide (least ≤ a) && decide (a < Config.memSize) && decide (b ≠ memInit f a) && memWfFrom f (a + 1) m

/-- The memory is in its canonical form. -/
def Memory.wf (f : Font) (m : Memory) : Bool := memWfFrom f 0 m

/-- The first address at or above 0x1000 of `len` consecutive bytes, if there is one (20_memory.md R58;
90_conflicts.md C13). -/
def firstBadAddress (a len : Nat) : Option Nat :=
  if len = 0 ∨ a + len ≤ Config.memSize then none else some (max a Config.memSize)

/-- The check of all addresses before any access (20_memory.md R58; 60_exceptions.md R206). -/
def checkBlock (a len : Nat) : Except FaultCause Unit :=
  match firstBadAddress a len with
  | none => .ok ()
  | some bad => .error (.addressOutOfRange bad)

/-- `len` bytes read from consecutive addresses. -/
def readBlock (f : Font) (m : Memory) : Nat → Nat → List Byte
  | _, 0 => []
  | a, len + 1 => memRead f m a :: readBlock f m (a + 1) len

/-- Bytes stored at consecutive addresses, in rising order. -/
def writeBlock (f : Font) : Memory → Nat → List Byte → Memory
  | m, _, [] => m
  | m, a, b :: bs => writeBlock f (memWrite f m a b) (a + 1) bs

/-! ## Narrowing (00_scope.md R12) -/

/-- `trunc8`. -/
def trunc8 (n : Nat) : Byte := BitVec.ofNat 8 n

/-- `trunc16`. -/
def trunc16 (n : Nat) : Word := BitVec.ofNat 16 n

/-! ## Registers (10_state.md) -/

/-- VF, the flag register (10_state.md R21). -/
abbrev vf : RegIdx := 15

/-- `V[x]`. -/
def State.getV (s : State) (x : RegIdx) : Byte := s.v[x]

/-- `V[x] <- b`. -/
def State.setV (s : State) (x : RegIdx) (b : Byte) : State := { s with v := s.v.set x b }

/-- All of `V` at once. -/
def State.setRegs (s : State) (v : Vector Byte 16) : State := { s with v := v }

/-- `V[0]` to `V[x]`, in order. -/
def State.regsUpTo (s : State) (x : RegIdx) : List Byte := s.v.toList.take (x.val + 1)

/-- Bytes put into consecutive registers from number `k` on. -/
def setRegsFrom (v : Vector Byte 16) : Nat → List Byte → Vector Byte 16
  | _, [] => v
  | k, b :: bs => setRegsFrom (v.setIfInBounds k b) (k + 1) bs

/-- `I <- w`. -/
def State.setI (s : State) (w : Word) : State := { s with i := w }

/-- `PC <- w`. -/
def State.setPc (s : State) (w : Word) : State := { s with pc := w }

/-- The default advance `PC <- PC + 2`, at 16 bits (40_cycle.md R102; 10_state.md R24). -/
def State.advance (s : State) : State := s.setPc (trunc16 (s.pc.toNat + 2))

/-- `DT <- b`. -/
def State.setDt (s : State) (b : Byte) : State := { s with dt := b }

/-- `ST <- b`. -/
def State.setSt (s : State) (b : Byte) : State := { s with st := b }

/-- The latch with bit `k` at `down` (written only by the host's ports, 10_state.md R29). -/
def State.setKey (s : State) (k : Fin Config.numKeys) (down : Bool) : State := { s with keys := s.keys.set k down }

/-- `FB <- fb`. -/
def State.setFb (s : State) (fb : FrameBuffer) : State := { s with fb := fb }

/-- `DIRTY <- d`. -/
def State.setDirty (s : State) (d : Bool) : State := { s with dirty := d }

/-- `STATUS <- st`. -/
def State.setStatus (s : State) (st : Status) : State := { s with status := st }

/-- `MEM <- m`. -/
def State.setMem (s : State) (m : Memory) : State := { s with mem := m }

/-- `MemRead(a, 1)`, without the bound check (00_scope.md R14). -/
def State.read (s : State) (a : Nat) : Byte := memRead s.params.font s.mem a

/-- `len` bytes read from `a` on. -/
def State.readBytes (s : State) (a len : Nat) : List Byte := readBlock s.params.font s.mem a len

/-- Bytes stored from `a` on, in rising order (`MemWrite`, 00_scope.md R14), without the bound check. -/
def State.store (s : State) (a : Nat) (bs : List Byte) : State := s.setMem (writeBlock s.params.font s.mem a bs)

/-- The host moves left to take. -/
def State.setInbox (s : State) (ms : List HostMove) : State := { s with inbox := ms }

/-- `emit`: send an event on an output port (00_scope.md R15). -/
def State.emit (s : State) (e : PortEvent) : State := { s with emitted := s.emitted ++ [e] }

/-- One more random byte has been drawn. -/
def State.countRandDraw (s : State) : State := { s with randDraws := s.randDraws + 1 }

/-- One more free tick input has been drawn. -/
def State.countTickDraw (s : State) : State := { s with tickDraws := s.tickDraws + 1 }

/-- `STATUS = Running`. -/
def Status.isRunning : Status → Bool
  | .running => true
  | .halted _ => false

/-! ## The call stack (10_state.md R26) -/

/-- The stack's entries and `SP`. -/
def State.setStack (s : State) (stack : Vector Word Config.stackCapacity) (sp : Fin (Config.stackCapacity + 1)) : State :=
  { s with stack := stack, sp := sp }

/-- A stack pointer below the depth is an entry there is room for. -/
theorem lt_capacity_of_lt_depth {p : Params} {n : Nat} (h : n < p.stackDepth.val) : n < Config.stackCapacity :=
  Nat.lt_of_lt_of_le h (Nat.le_of_lt_succ p.stackDepth.isLt)

/-- `Push(w)`, with its bound check against `STACK_DEPTH`. -/
def State.push (s : State) (w : Word) : Except FaultCause State :=
  if h : s.sp.val < s.params.stackDepth.val then
    .ok (s.setStack (s.stack.set s.sp.val w (lt_capacity_of_lt_depth h))
      ⟨s.sp.val + 1, Nat.succ_lt_succ (lt_capacity_of_lt_depth h)⟩)
  else .error (.stackOverflow s.sp.val)

/-- `Pop()`, with its bound check: the popped entry and the state with `SP` decremented. -/
def State.pop (s : State) : Except FaultCause (Word × State) :=
  if h : 0 < s.sp.val then
    .ok (s.stack[s.sp.val - 1]'(by have := s.sp.isLt; omega),
      s.setStack s.stack ⟨s.sp.val - 1, Nat.lt_of_le_of_lt (Nat.sub_le _ _) s.sp.isLt⟩)
  else .error (.stackUnderflow s.sp.val)

/-! ## The frame buffer (10_state.md R30) -/

/-- The pixel at a row mod 32 and a column mod 64. -/
def pixel (fb : FrameBuffer) (r c : Nat) : Bool :=
  (fb[r % Config.fbRows]'(Nat.mod_lt _ (by decide)))[c % Config.fbCols]'(Nat.mod_lt _ (by decide))

/-- The frame buffer with the pixel at a row mod 32 and a column mod 64 at `p`. -/
def setPixel (fb : FrameBuffer) (r c : Nat) (p : Bool) : FrameBuffer :=
  fb.set (r % Config.fbRows)
    ((fb[r % Config.fbRows]'(Nat.mod_lt _ (by decide))).set (c % Config.fbCols) p (Nat.mod_lt _ (by decide)))
    (Nat.mod_lt _ (by decide))

/-- Every pixel false. -/
def clearFb : FrameBuffer := Vector.replicate Config.fbRows (Vector.replicate Config.fbCols false)

/-! ## Fetch (20_memory.md R55, R56; 40_cycle.md R101) -/

/-- The word at `PC`, big-endian, or the fault of the first of the two addresses at or above 0x1000. -/
def State.fetch (s : State) : Except FaultCause Word :=
  match checkBlock s.pc.toNat 2 with
  | .error c => .error c
  | .ok _ => .ok (wordOfBytes (s.read s.pc.toNat) (s.read (s.pc.toNat + 1)))

/-! ## Taking a fault (60_exceptions.md R201, R205) -/

/-- The word of the executing instruction, none where the fetch itself faults (60_exceptions.md R201). `PC` is the
executing instruction's address (40_cycle.md R101) and nothing has been written when a fault is raised, so reading
the word again gives the fetched one. DEDUCED: log entry 2. -/
def State.fetchedWord (s : State) : Option Word :=
  match s.fetch with
  | .ok w => some w
  | .error _ => none

/-- `raise Fault(cause)`: `STATUS <- Halted(record)` and nothing else (60_exceptions.md R205). No register, vector or
mode is touched, and there is no return (R208). -/
def raise (cause : FaultCause) (s : State) : Result :=
  .next (s.setStatus (.halted { cause := cause, pc := s.pc, word := s.fetchedWord }))

/-- Go on with the value of a checked operation, or take its fault in the state before it (60_exceptions.md R206). -/
def orRaise {α : Type} (checked : Except FaultCause α) (s : State) (go : α → Result) : Result :=
  match checked with
  | .ok a => go a
  | .error cause => raise cause s

/-- The cause code (60_exceptions.md R200). -/
def FaultCause.code : FaultCause → Nat
  | .addressOutOfRange _ => 1
  | .stackOverflow _ => 2
  | .stackUnderflow _ => 3
  | .keyIndexOutOfRange _ => 4
  | .illegalInstruction _ => 5

end Sys2Proof.Machine
end

