-- ==== Sys2Proof/Machine/Flags.lean ====
section
/-!
DEFINITION. The results and the flags of the ALU (42_alu.md), computed on naturals and narrowed at the end
(00_scope.md R12), and the writing of a result with its flag (R152).
-/

namespace Sys2Proof.Machine

/-- A flag's byte: 1 or 0. -/
def flagByte (b : Bool) : Byte := if b then 1#8 else 0#8

/-- `trunc8(a + b)` (42_alu.md R141, R146). -/
def addResult (a b : Byte) : Byte := trunc8 (a.toNat + b.toNat)

/-- The sum exceeds 255 (42_alu.md R146). -/
def carryOut (a b : Byte) : Bool := decide (a.toNat + b.toNat > 255)

/-- `trunc8(a + 256 - b)` (42_alu.md R147, R149). -/
def subResult (a b : Byte) : Byte := trunc8 (a.toNat + 256 - b.toNat)

/-- The minuend is at least the subtrahend (42_alu.md R147, R149). -/
def noBorrow (a b : Byte) : Bool := decide (a.toNat ≥ b.toNat)

/-- `a >> 1` (42_alu.md R148). -/
def shrResult (a : Byte) : Byte := trunc8 (a.toNat / 2)

/-- `a & 1`, the bit SHR shifts out. -/
def shrOut (a : Byte) : Bool := a.getLsbD 0

/-- `trunc8(a << 1)` (42_alu.md R150). -/
def shlResult (a : Byte) : Byte := trunc8 (a.toNat * 2)

/-- `a >> 7`, the bit SHL shifts out. -/
def shlOut (a : Byte) : Bool := a.getLsbD 7

/-- Write the result to `V[x]` and then the flag to VF, so that VF ends as the flag when `x = 15`
(42_alu.md R152; 40_cycle.md R109). -/
def State.setResultAndFlag (s : State) (x : RegIdx) (result flag : Byte) : State :=
  (s.setV x result).setV vf flag

end Sys2Proof.Machine
end

