-- ==== Sys2Proof/Machine/Alu.lean ====
section
/-!
DEFINITION. The ALU, loads of registers and random (42_alu.md). Each ends with the default advance.
-/

namespace Sys2Proof.Machine

/-- LD Vx, kk (R140). -/
def execLdImm (x : RegIdx) (kk : Byte) (s : State) : Result := .next (s.setV x kk).advance

/-- ADD Vx, kk (R141): no flag. -/
def execAddImm (x : RegIdx) (kk : Byte) (s : State) : Result :=
  .next (s.setV x (addResult (s.getV x) kk)).advance

/-- LD Vx, Vy (R142). -/
def execLdReg (x y : RegIdx) (s : State) : Result := .next (s.setV x (s.getV y)).advance

/-- OR Vx, Vy (R143): VF is cleared. -/
def execOr (x y : RegIdx) (s : State) : Result :=
  .next (s.setResultAndFlag x (s.getV x ||| s.getV y) 0#8).advance

/-- AND Vx, Vy (R144): VF is cleared. -/
def execAnd (x y : RegIdx) (s : State) : Result :=
  .next (s.setResultAndFlag x (s.getV x &&& s.getV y) 0#8).advance

/-- XOR Vx, Vy (R145): VF is cleared. -/
def execXor (x y : RegIdx) (s : State) : Result :=
  .next (s.setResultAndFlag x (s.getV x ^^^ s.getV y) 0#8).advance

/-- ADD Vx, Vy (R146): VF is the carry. -/
def execAddReg (x y : RegIdx) (s : State) : Result :=
  .next (s.setResultAndFlag x (addResult (s.getV x) (s.getV y)) (flagByte (carryOut (s.getV x) (s.getV y)))).advance

/-- SUB Vx, Vy (R147): `Vx - Vy`, VF is no-borrow. -/
def execSub (x y : RegIdx) (s : State) : Result :=
  .next (s.setResultAndFlag x (subResult (s.getV x) (s.getV y)) (flagByte (noBorrow (s.getV x) (s.getV y)))).advance

/-- SHR Vx (R148): VF is the bit shifted out; `V[y]` is not read. -/
def execShr (x : RegIdx) (s : State) : Result :=
  .next (s.setResultAndFlag x (shrResult (s.getV x)) (flagByte (shrOut (s.getV x)))).advance

/-- SUBN Vx, Vy (R149): `Vy - Vx`, VF is no-borrow. -/
def execSubn (x y : RegIdx) (s : State) : Result :=
  .next (s.setResultAndFlag x (subResult (s.getV y) (s.getV x)) (flagByte (noBorrow (s.getV y) (s.getV x)))).advance

/-- SHL Vx (R150): VF is the bit shifted out; `V[y]` is not read. -/
def execShl (x : RegIdx) (s : State) : Result :=
  .next (s.setResultAndFlag x (shlResult (s.getV x)) (flagByte (shlOut (s.getV x)))).advance

/-- RND Vx, kk (R151): a random byte under a mask. The byte is a free value (log entry 4). -/
def execRnd (x : RegIdx) (kk : Byte) (s : State) : Result :=
  .next ((s.setV x (Config.randomByte s.randDraws &&& kk)).countRandDraw).advance

end Sys2Proof.Machine
end

