-- ==== Sys2Proof/Machine/Operands.lean ====
section
/-!
DEFINITION. Operand forms shared by several instructions: the skip (41_control.md R123), the key index
(44_keys_timers.md R186), the key scan (R183), the glyph address and the decimal digits (45_index_memory.md R192, R193).
-/

namespace Sys2Proof.Machine

/-- `Skip(cond)`: `PC + 4` or `PC + 2`, at 16 bits (41_control.md R123). The skipped word is not looked at. -/
def State.skip (s : State) (cond : Bool) : State :=
  s.setPc (trunc16 (s.pc.toNat + (if cond then 4 else 2)))

/-- The latch bit a register's value names, or the fault of a value above 15 (44_keys_timers.md R186). -/
def State.keyAt (s : State) (k : Byte) : Except FaultCause Bool :=
  if h : k.toNat < Config.numKeys then .ok s.keys[k.toNat] else .error (.keyIndexOutOfRange k)

/-- The least key that is down, if one is (44_keys_timers.md R183). -/
def State.lowestKey (s : State) : Option (Fin Config.numKeys) :=
  (List.finRange Config.numKeys).find? (fun k => s.keys[k])

/-- `vx * 5`, unmasked (45_index_memory.md R192). -/
def glyphAddress (vx : Byte) : Word := trunc16 (vx.toNat * Config.glyphStride)

/-- Hundreds, tens and ones (45_index_memory.md R193). -/
def decimalDigits (vx : Byte) : List Byte :=
  [trunc8 (vx.toNat / 100), trunc8 (vx.toNat / 10 % 10), trunc8 (vx.toNat % 10)]

/-- One past a block that starts at `I` and whose last register is `x` (45_index_memory.md R194, R195). -/
def State.pastBlock (s : State) (x : RegIdx) : Word := trunc16 (s.i.toNat + x.val + 1)

end Sys2Proof.Machine
end

