-- ==== Sys2Proof/Machine/Control.lean ====
section
/-!
DEFINITION. Control transfer (41_control.md). These instructions set `PC` themselves (40_cycle.md R102).
-/

namespace Sys2Proof.Machine

/-- RET (R121): pop the address of the CALL and go to the word after it. -/
def execRet (s : State) : Result :=
  orRaise s.pop s (fun popped => .next (popped.2.setPc (trunc16 (popped.1.toNat + 2))))

/-- JP nnn (R120). -/
def execJp (nnn : Word) (s : State) : Result := .next (s.setPc nnn)

/-- CALL nnn (R122): the address of the CALL itself is pushed. -/
def execCall (nnn : Word) (s : State) : Result :=
  orRaise (s.push s.pc) s (fun pushed => .next (pushed.setPc nnn))

/-- SE Vx, kk (R124). -/
def execSeImm (x : RegIdx) (kk : Byte) (s : State) : Result := .next (s.skip (s.getV x == kk))

/-- SNE Vx, kk (R125). -/
def execSneImm (x : RegIdx) (kk : Byte) (s : State) : Result := .next (s.skip (s.getV x != kk))

/-- SE Vx, Vy (R126). -/
def execSeReg (x y : RegIdx) (s : State) : Result := .next (s.skip (s.getV x == s.getV y))

/-- SNE Vx, Vy (R127). -/
def execSneReg (x y : RegIdx) (s : State) : Result := .next (s.skip (s.getV x != s.getV y))

/-- JP V0, nnn (R128): always `V[0]`, the sum not reduced to 12 bits. -/
def execJpV0 (nnn : Word) (s : State) : Result :=
  .next (s.setPc (trunc16 ((s.getV 0).toNat + nnn.toNat)))

end Sys2Proof.Machine
end

