-- ==== Sys2Proof/Machine/Display.lean ====
section
/-!
DEFINITION. Clear and the sprite engine (43_display.md).
-/

namespace Sys2Proof.Machine

/-- CLS (R170): every pixel false, `DIRTY` set even when the buffer was clear. -/
def execCls (s : State) : Result := .next ((s.setFb clearFb).setDirty true).advance

/-- What the drawing loop of R171 carries: the frame buffer, whether a sprite bit was 1 (`changed`), and whether such a
bit met a set pixel (the collision VF reports). -/
structure DrawState where
  fb : FrameBuffer
  changed : Bool
  collided : Bool
  deriving DecidableEq, Repr

/-- One pass of R171's loop: the pixel at row `r`, column `c` (mod 32, mod 64) is XORed with a sprite bit. -/
def drawPixel (d : DrawState) (bit : Bool) (r c : Nat) : DrawState where
  fb := setPixel d.fb r c (pixel d.fb r c ^^ bit)
  changed := d.changed || bit
  collided := d.collided || (bit && pixel d.fb r c)

/-- One sprite byte at row `r` from column `ox`, most significant bit leftmost. -/
def drawRow (ox r : Nat) (row : Byte) (d : DrawState) : DrawState :=
  (List.range 8).foldl (fun d j => drawPixel d (row.getMsbD j) r (ox + j)) d

/-- The sprite's bytes at rows `r`, `r + 1`, … -/
def drawRows (ox : Nat) : Nat → List Byte → DrawState → DrawState
  | _, [], d => d
  | r, row :: rows, d => drawRows ox (r + 1) rows (drawRow ox r row d)

/-- The sprite of `n` bytes at `I` drawn with origin column `ox` and row `oy` over the state's frame buffer. -/
def State.drawSprite (s : State) (ox oy n : Nat) : DrawState :=
  drawRows ox oy (s.readBytes s.i.toNat n) { fb := s.fb, changed := false, collided := false }

/-- Put a drawing's outcome into the state: `FB`, `DIRTY` (never cleared here) and VF. -/
def State.putDrawing (s : State) (d : DrawState) : State :=
  ((s.setFb d.fb).setDirty (s.dirty || d.changed)).setV vf (flagByte d.collided)

/-- DRW Vx, Vy, n (R171): all sprite addresses are checked before any write, the coordinates are read before VF is
written, coordinates wrap. -/
def execDrw (x y : RegIdx) (n : Fin 16) (s : State) : Result :=
  orRaise (checkBlock s.i.toNat n.val) s (fun _ =>
    .next (s.putDrawing (s.drawSprite (s.getV x).toNat (s.getV y).toNat n.val)).advance)

end Sys2Proof.Machine
end

