-- ==== Sys2Proof/Machine/IndexMemory.lean ====
section
/-!
DEFINITION. The address register and memory transfers (45_index_memory.md). A block's addresses are all checked before
its first write. Each instruction ends with the default advance.
-/

namespace Sys2Proof.Machine

/-- LD I, nnn (R190). -/
def execLdI (nnn : Word) (s : State) : Result := .next (s.setI nnn).advance

/-- ADD I, Vx (R191): mod 0x10000, no flag, no clamp at 0xFFF. -/
def execAddI (x : RegIdx) (s : State) : Result :=
  .next (s.setI (trunc16 (s.i.toNat + (s.getV x).toNat))).advance

/-- LD F, Vx (R192). -/
def execLdF (x : RegIdx) (s : State) : Result := .next (s.setI (glyphAddress (s.getV x))).advance

/-- LD B, Vx (R193). -/
def execLdB (x : RegIdx) (s : State) : Result :=
  orRaise (checkBlock s.i.toNat 3) s (fun _ =>
    .next (s.store s.i.toNat (decimalDigits (s.getV x))).advance)

/-- LD [I], Vx (R194). -/
def execStoreBlock (x : RegIdx) (s : State) : Result :=
  orRaise (checkBlock s.i.toNat (x.val + 1)) s (fun _ =>
    .next ((s.store s.i.toNat (s.regsUpTo x)).setI (s.pastBlock x)).advance)

/-- LD Vx, [I] (R195). -/
def execLoadBlock (x : RegIdx) (s : State) : Result :=
  orRaise (checkBlock s.i.toNat (x.val + 1)) s (fun _ =>
    .next ((s.setRegs (setRegsFrom s.v 0 (s.readBytes s.i.toNat (x.val + 1)))).setI (s.pastBlock x)).advance)

end Sys2Proof.Machine
end

