-- ==== Sys2Proof/Machine/KeysTimers.lean ====
section
/-!
DEFINITION. Key tests, key wait and the timer registers (44_keys_timers.md). The cycle's key snapshot is the latch
itself, which no host move can change inside a cycle (70_reset_and_hazards.md R251; log entry 13).
-/

namespace Sys2Proof.Machine

/-- SKP Vx (R180). -/
def execSkp (x : RegIdx) (s : State) : Result :=
  orRaise (s.keyAt (s.getV x)) s (fun down => .next (s.skip down))

/-- SKNP Vx (R181). -/
def execSknp (x : RegIdx) (s : State) : Result :=
  orRaise (s.keyAt (s.getV x)) s (fun down => .next (s.skip (!down)))

/-- LD Vx, DT (R182). -/
def execLdVxDt (x : RegIdx) (s : State) : Result := .next (s.setV x s.dt).advance

/-- LD Vx, K (R183): the least key down is stored; with none down nothing changes, `PC` included. -/
def execLdVxK (x : RegIdx) (s : State) : Result :=
  match s.lowestKey with
  | some k => .next (s.setV x (trunc8 k.val)).advance
  | none => .next s

/-- LD DT, Vx (R184). -/
def execLdDtVx (x : RegIdx) (s : State) : Result := .next (s.setDt (s.getV x)).advance

/-- LD ST, Vx (R185): no tone event here. -/
def execLdStVx (x : RegIdx) (s : State) : Result := .next (s.setSt (s.getV x)).advance

end Sys2Proof.Machine
end

