-- ==== Sys2Proof/Machine/Ports.lean ====
section
/-!
DEFINITION. The timer countdown engine (60_exceptions.md R215 to R218) and the host's ports other than the cycle
request: keys (R222), image load (R228; 70_reset_and_hazards.md R243 to R247), status (R227).
-/

namespace Sys2Proof.Machine

/-! ## One tick -/

/-- `if DT > 0 then DT <- DT - 1` (R215). -/
def tickDelay (s : State) : State :=
  if s.dt.toNat > 0 then s.setDt (trunc8 (s.dt.toNat - 1)) else s

/-- Decrement `ST` while nonzero, and emit one tone when it becomes zero (R216). The duration is the OPEN parameter
applied to the value before the decrement. -/
def tickSound (s : State) : State :=
  if s.st.toNat > 0 then
    if s.st.toNat - 1 = 0 then (s.setSt (trunc8 (s.st.toNat - 1))).emit (.tone (Config.toneMs s.st))
    else s.setSt (trunc8 (s.st.toNat - 1))
  else s

/-- Emit the frame and clear `DIRTY`, if it is set (R217). -/
def tickFrame (s : State) : State :=
  if s.dirty then (s.emit (.frame s.fb)).setDirty false else s

/-- One tick, in the order of R218. -/
def tick (s : State) : State := tickFrame (tickSound (tickDelay s))

/-! ## Keys, load, status -/

/-- `key_down(k)` and `key_up(k)` (R222): an index above 15 is answered with an error and changes nothing. -/
def keyEvent (k : Nat) (down : Bool) (s : State) : State :=
  if h : k < Config.numKeys then s.setKey ⟨k, h⟩ down else s.emit (.keyError k)

/-- A successful load (70_reset_and_hazards.md R243): the bytes, `PC` and `I`, nothing else. -/
def putImage (image : List Byte) (s : State) : State :=
  ((s.store Config.progBase image).setPc (trunc16 Config.progBase)).setI (trunc16 Config.progBase)

/-- `load(image)`: failure with no state change for an unreadable source (R244) and for more than 3584 bytes (R245);
the answer goes out on the port (60_exceptions.md R228). -/
def loadImage (image : Option (List Byte)) (s : State) : State :=
  match image with
  | none => s.emit (.loadAnswer false)
  | some bytes =>
    if bytes.length ≤ Config.maxImage then (putImage bytes s).emit (.loadAnswer true)
    else s.emit (.loadAnswer false)

/-- A read of the status port (R227). -/
def readStatus (s : State) : State := s.emit (.status s.status)

end Sys2Proof.Machine
end

