-- ==== Sys2Proof/Machine/Cycle.lean ====
section
/-!
DEFINITION. The cycle (40_cycle.md R100 to R107), and one move of the host (60_exceptions.md R220, R221).
-/

namespace Sys2Proof.Machine

/-- An unrecognised word (40_cycle.md R104, R105): under `stall` no effect, `PC` unchanged; under `fault` it is
raised. -/
def unrecognised (policy : IllegalPolicy) (w : Word) (s : State) : Result :=
  match policy with
  | .stall => .next s
  | .fault => raise (.illegalInstruction w) s

/-- The last part of a cycle: the tick, if it was requested and the cycle did not fault (60_exceptions.md R205, R219). -/
def endCycle (ticks : Bool) : Result → Result
  | .next s => .next (if ticks && s.status.isRunning then tick s else s)
  | .fault r => .fault r
  | .refused r => .refused r

/-- Decode, dispatch and execute one fetched word (40_cycle.md R100, R103), an unrecognised one under the machine's
`ILLEGAL_POLICY`. -/
def executeWord (w : Word) (s : State) : Result :=
  match decodeWord w with
  | .ok i => exec i s
  | .error _ => unrecognised s.params.illegalPolicy w s

/-- One cycle with its tick input (40_cycle.md R100): nothing while halted (R107); a fetch fault ends it before
decode (R101). -/
def cycle (ticks : Bool) (s : State) : Result :=
  match s.status with
  | .halted _ => .next s
  | .running =>
    match s.fetch with
    | .error cause => raise cause s
    | .ok w => endCycle ticks (executeWord w s)

/-- One host move, atomic with respect to cycles (60_exceptions.md R220, R229). -/
def hostMove (m : HostMove) (s : State) : Result :=
  match m with
  | .cycle ticks => cycle ticks s
  | .keyDown k => .next (keyEvent k true s)
  | .keyUp k => .next (keyEvent k false s)
  | .load image => .next (loadImage image s)
  | .readStatus => .next (readStatus s)

/-- Take the oldest pending host move; with none pending the host requests a cycle whose tick input is a free value
(60_exceptions.md R230; log entry 3). -/
def takeMove (s : State) : Result :=
  match s.inbox with
  | [] => cycle (Config.tickRequest s.tickDraws) s.countTickDraw
  | m :: rest => hostMove m (s.setInbox rest)

/-! ## Placing an instruction where the next step fetches it -/

/-- Where a word can stand for the next fetch: at `PC`, or at 0x200 where `PC` leaves no room for it. -/
def fetchSlot (s : State) : Word := if s.pc.toNat + 2 ≤ Config.memSize then s.pc else Config.pcReset

/-- Store a word's two bytes at the fetch slot of a running core, and let the host's next move be one cycle without a
tick (70_reset_and_hazards.md R242: load, then cycles). -/
def placeWord (s : State) (bytes : List Byte) : State :=
  ((((s.store (fetchSlot s).toNat bytes).setPc (fetchSlot s)).setStatus .running).setInbox
    (.cycle false :: s.inbox))

end Sys2Proof.Machine
end

