-- ==== Sys2Proof/Machine/Step.lean ====
section
/-!
DEFINITION. One step of the machine: one move of the host, which for a cycle request is one instruction.
-/

namespace Sys2Proof.Machine

/-- One step: the core takes the host's next move (00_scope.md R19; 60_exceptions.md R220). -/
def step (s : State) : Host.Outcome State Fault Refusal := takeMove s

/-- The state whose very next step fetches and runs the instruction of a table word (log entry 16). -/
def State.withFetchWord (s : State) (nbits w : Nat) : State := placeWord s (tableBytes nbits w)

end Sys2Proof.Machine
end

