-- ==== Sys2Proof/Safety.lean ====
section
/-!
DEFINITION. The terms claims are stated in: pieces of state and frames, halting, stops, the invariants, and the read
and write sets of the instructions (10_state.md R22).
-/

namespace Sys2Proof.Safety
open Sys2Proof.Machine

/-! ## Pieces of state and frames -/

/-- The pieces of state a frame speaks of. -/
inductive Piece where
  /-- The machine's parameters, which nothing writes. -/
  | params
  /-- All general registers. -/
  | v
  /-- `I`. -/
  | i
  /-- `PC`. -/
  | pc
  /-- `SP` and every stack entry. -/
  | stack
  /-- `DT`. -/
  | dt
  /-- `ST`. -/
  | st
  /-- The input latch. -/
  | keys
  /-- The frame buffer. -/
  | fb
  /-- `DIRTY`. -/
  | dirty
  /-- `STATUS`. -/
  | status
  /-- Every byte of memory. -/
  | mem
  /-- The host's side: pending moves, what was emitted, the count of drawn tick inputs. -/
  | ports
  /-- The count of drawn random bytes. -/
  | draws
  deriving DecidableEq, Repr

/-- A piece of state is the same in two states. -/
def samePiece : Piece → State → State → Prop
  | .params, s, t => t.params = s.params
  | .v, s, t => ∀ k : RegIdx, t.getV k = s.getV k
  | .i, s, t => t.i = s.i
  | .pc, s, t => t.pc = s.pc
  | .stack, s, t => t.sp = s.sp ∧ t.stack = s.stack
  | .dt, s, t => t.dt = s.dt
  | .st, s, t => t.st = s.st
  | .keys, s, t => t.keys = s.keys
  | .fb, s, t => t.fb = s.fb
  | .dirty, s, t => t.dirty = s.dirty
  | .status, s, t => t.status = s.status
  | .mem, s, t => ∀ a : Nat, t.read a = s.read a
  | .ports, s, t => t.inbox = s.inbox ∧ t.emitted = s.emitted ∧ t.tickDraws = s.tickDraws
  | .draws, s, t => t.randDraws = s.randDraws

/-- Every piece of state but those named is the same. -/
def UnchangedBut (ps : List Piece) (s t : State) : Prop := ∀ p : Piece, p ∉ ps → samePiece p s t

/-- `PC` has advanced by `n`, at 16 bits (10_state.md R24). -/
def AdvancedBy (n : Nat) (s t : State) : Prop := t.pc.toNat = (s.pc.toNat + n) % 0x10000

/-- Every register is as before, but `x` holds a value and then VF holds a flag (42_alu.md R152). -/
def RegsAfterFlag (x : RegIdx) (result flag : Nat) (s t : State) : Prop :=
  ∀ k : RegIdx, (t.getV k).toNat = if k = 15 then flag else if k = x then result else (s.getV k).toNat

/-- Every register is as before, but `x` holds a value. -/
def RegsAfter (x : RegIdx) (result : Nat) (s t : State) : Prop :=
  ∀ k : RegIdx, (t.getV k).toNat = if k = x then result else (s.getV k).toNat

/-! ## Halting and stops -/

/-- Fault entry (60_exceptions.md R205): nothing but `STATUS` changes, which records the cause, the `PC` of the
instruction and its word (R201). -/
def HaltsWith (cause : FaultCause) (s t : State) : Prop :=
  UnchangedBut [.status] s t ∧ t.status = .halted { cause := cause, pc := s.pc, word := s.fetchedWord }

/-- A bad stop: the core is halted (70_reset_and_hazards.md R255 (a)). -/
def BadStop (s : State) : Prop := s.status ≠ .running

/-- A good stop: the core runs and the word at `PC` is a JP to its own address (70_reset_and_hazards.md R255 (b)). -/
def SelfLoop (s : State) : Prop :=
  s.status = .running ∧ ∃ w : Word, s.fetch = .ok w ∧ decodeWord w = .ok (.jp s.pc)

/-! ## Invariants -/

/-- The memory list is in its canonical form. -/
def MemoryCanonical (s : State) : Prop := Memory.wf s.params.font s.mem = true

/-- `PC` and every return address in use are within the values 40_cycle.md R106 lists. -/
def PcInRange (s : State) : Prop :=
  s.pc.toNat ≤ 0x10FE ∧
    ∀ (k : Nat) (w : Word), k < s.sp.val → s.stack[k]? = some w → w.toNat ≤ 0xFFE

/-- `SP` is in `0..STACK_DEPTH` (10_state.md R25). -/
def StackWithinDepth (s : State) : Prop := s.sp.val ≤ s.params.stackDepth.val

/-! ## Read and write sets (10_state.md R22 to R31) -/

/-- The general registers an instruction reads (10_state.md R22). -/
def regsRead : Instr → RegIdx → Bool
  | .cls, _ => false
  | .ret, _ => false
  | .jp _, _ => false
  | .call _, _ => false
  | .seImm x _, k => k == x
  | .sneImm x _, k => k == x
  | .seReg x y, k => k == x || k == y
  | .ldImm _ _, _ => false
  | .addImm x _, k => k == x
  | .ldReg _ y, k => k == y
  | .orReg x y, k => k == x || k == y
  | .andReg x y, k => k == x || k == y
  | .xorReg x y, k => k == x || k == y
  | .addReg x y, k => k == x || k == y
  | .subReg x y, k => k == x || k == y
  | .shr x, k => k == x
  | .subnReg x y, k => k == x || k == y
  | .shl x, k => k == x
  | .sneReg x y, k => k == x || k == y
  | .ldI _, _ => false
  | .jpV0 _, k => k == 0
  | .rnd _ _, _ => false
  | .drw x y _, k => k == x || k == y
  | .skp x, k => k == x
  | .sknp x, k => k == x
  | .ldVxDt _, _ => false
  | .ldVxK _, _ => false
  | .ldDtVx x, k => k == x
  | .ldStVx x, k => k == x
  | .addI x, k => k == x
  | .ldF x, k => k == x
  | .ldB x, k => k == x
  | .storeBlock x, k => decide (k ≤ x)
  | .loadBlock _, _ => false

/-- The general registers an instruction may write (10_state.md R22). -/
def regsWritten : Instr → RegIdx → Bool
  | .cls, _ => false
  | .ret, _ => false
  | .jp _, _ => false
  | .call _, _ => false
  | .seImm _ _, _ => false
  | .sneImm _ _, _ => false
  | .seReg _ _, _ => false
  | .ldImm x _, k => k == x
  | .addImm x _, k => k == x
  | .ldReg x _, k => k == x
  | .orReg x _, k => k == x || k == 15
  | .andReg x _, k => k == x || k == 15
  | .xorReg x _, k => k == x || k == 15
  | .addReg x _, k => k == x || k == 15
  | .subReg x _, k => k == x || k == 15
  | .shr x, k => k == x || k == 15
  | .subnReg x _, k => k == x || k == 15
  | .shl x, k => k == x || k == 15
  | .sneReg _ _, _ => false
  | .ldI _, _ => false
  | .jpV0 _, _ => false
  | .rnd x _, k => k == x
  | .drw _ _ _, k => k == 15
  | .skp _, _ => false
  | .sknp _, _ => false
  | .ldVxDt x, k => k == x
  | .ldVxK x, k => k == x
  | .ldDtVx _, _ => false
  | .ldStVx _, _ => false
  | .addI _, _ => false
  | .ldF _, _ => false
  | .ldB _, _ => false
  | .storeBlock _, _ => false
  | .loadBlock x, k => decide (k ≤ x)

/-- The pieces of state other than `V`, `PC` and `STATUS` an instruction may write (10_state.md R23 to R31;
20_memory.md R59). `PC` may be written by every instruction, `STATUS` by a fault (60_exceptions.md R200). -/
def piecesWritten : Instr → List Piece
  | .cls => [.fb, .dirty]
  | .ret => [.stack]
  | .call _ => [.stack]
  | .drw _ _ _ => [.fb, .dirty]
  | .ldDtVx _ => [.dt]
  | .ldStVx _ => [.st]
  | .ldI _ => [.i]
  | .addI _ => [.i]
  | .ldF _ => [.i]
  | .ldB _ => [.mem]
  | .storeBlock _ => [.mem, .i]
  | .loadBlock _ => [.i]
  | .rnd _ _ => [.draws]
  | .jp _ | .jpV0 _ => []
  | .seImm _ _ | .sneImm _ _ | .seReg _ _ | .sneReg _ _ => []
  | .ldImm _ _ | .addImm _ _ | .ldReg _ _ => []
  | .orReg _ _ | .andReg _ _ | .xorReg _ _ => []
  | .addReg _ _ | .subReg _ _ | .subnReg _ _ | .shr _ | .shl _ => []
  | .skp _ | .sknp _ | .ldVxDt _ | .ldVxK _ => []

/-- The cause code an instruction can raise, 0 for none (60_exceptions.md R200). -/
def faultCode : Instr → Nat
  | .drw _ _ _ | .ldB _ | .storeBlock _ | .loadBlock _ => 1
  | .call _ => 2
  | .ret => 3
  | .skp _ | .sknp _ => 4
  | .cls | .jp _ | .jpV0 _ => 0
  | .seImm _ _ | .sneImm _ _ | .seReg _ _ | .sneReg _ _ => 0
  | .ldImm _ _ | .addImm _ _ | .ldReg _ _ => 0
  | .orReg _ _ | .andReg _ _ | .xorReg _ _ => 0
  | .addReg _ _ | .subReg _ _ | .subnReg _ _ | .shr _ | .shl _ => 0
  | .rnd _ _ => 0
  | .ldVxDt _ | .ldVxK _ | .ldDtVx _ | .ldStVx _ => 0
  | .ldI _ | .addI _ | .ldF _ => 0

end Sys2Proof.Safety
end

