-- ==== Sys2Proof/Certificates/Slice0/Obligations.lean ====
section
/-!
DEFINITION. The statements for the provers. Each docstring names the rules of spec/ it formalises. `∃ t, exec i s =
.next t ∧ …` says that the instruction completes with its own effect; what is not named in `UnchangedBut` is its frame.
-/

open Sys2Proof Sys2Proof.Machine Sys2Proof.Safety

/-! ## Reset -/

/-- 10_state.md R37: every piece of state at construction, for whatever parameters the core is constructed with
(00_scope.md R11): memory holds the parameter `FONT` and zero. The zeros of the registers are the spec's decision D8
(log entry 9). -/
def Obligations.ConstructionLeavesTheStateOfReset : Prop :=
  ∀ p : Params,
    (∀ a : Fin 80, (State.resetWith p).read a.val = p.font[a]) ∧
    (∀ a : Nat, 0x50 ≤ a → (State.resetWith p).read a = 0) ∧
    (State.resetWith p).pc = 0x200 ∧ (State.resetWith p).i = 0 ∧
    (∀ k : RegIdx, (State.resetWith p).getV k = 0) ∧
    (State.resetWith p).sp = 0 ∧ (∀ k : Fin 256, (State.resetWith p).stack[k] = 0) ∧
    (State.resetWith p).dt = 0 ∧ (State.resetWith p).st = 0 ∧
    (∀ k : Fin 16, (State.resetWith p).keys[k] = false) ∧
    (∀ r c : Nat, pixel (State.resetWith p).fb r c = false) ∧
    (State.resetWith p).dirty = false ∧ (State.resetWith p).status = .running ∧
    (State.resetWith p).params = p

/-- 00_scope.md R11, 20_memory.md R53: the hardware is the core constructed with the standard font, `Stall` and 256
stack entries. This is the one statement that names the font's bytes, which the spec takes from general knowledge
(decision D23, log entry 7); the policy is decision D4, the depth D17. -/
def Obligations.HardwareHasTheParametersOfTheSpec : Prop :=
  State.reset = State.resetWith hardwareParams ∧
  hardwareParams.illegalPolicy = .stall ∧ hardwareParams.stackDepth.val = 256 ∧
  hardwareParams.font.toList =
    [0xF0, 0x90, 0x90, 0x90, 0xF0,  0x20, 0x60, 0x20, 0x20, 0x70,  0xF0, 0x10, 0xF0, 0x80, 0xF0,
     0xF0, 0x10, 0xF0, 0x10, 0xF0,  0x90, 0x90, 0xF0, 0x10, 0x10,  0xF0, 0x80, 0xF0, 0x10, 0xF0] ++
    [0xF0, 0x80, 0xF0, 0x90, 0xF0,  0xF0, 0x10, 0x20, 0x40, 0x40,  0xF0, 0x90, 0xF0, 0x90, 0xF0,
     0xF0, 0x90, 0xF0, 0x10, 0xF0,  0xF0, 0x90, 0xF0, 0x90, 0x90,  0xE0, 0x90, 0xE0, 0x90, 0xE0] ++
    [0xF0, 0x80, 0x80, 0x80, 0xF0,  0xE0, 0x90, 0x90, 0x90, 0xE0,  0xF0, 0x80, 0xF0, 0x80, 0xF0,
     0xF0, 0x80, 0xF0, 0x80, 0x80]

/-- The invariants of Safety.lean hold at construction, for whatever parameters (40_cycle.md R106; 10_state.md R25; the
memory's canonical form is the model's). -/
def Obligations.ResetMeetsTheInvariants : Prop :=
  ∀ p : Params,
    MemoryCanonical (State.resetWith p) ∧ PcInRange (State.resetWith p) ∧ StackWithinDepth (State.resetWith p)

/-! ## Decoding -/

/-- Words written out from 30_encoding.md R85, one or two of each family. -/
def Obligations.SpecWordsDecodeToTheirInstructions : Prop :=
  decodeWord 0x03E0 = .ok .cls ∧ decodeWord 0x05EE = .ok .ret ∧
  decodeWord 0x1301 = .ok (.jp 0x301) ∧ decodeWord 0x2FFE = .ok (.call 0xFFE) ∧
  decodeWord 0x512F = .ok (.seReg 1 2) ∧ decodeWord 0xB300 = .ok (.jpV0 0x300) ∧
  decodeWord 0x7F01 = .ok (.addImm 15 0x01) ∧ decodeWord 0x81F4 = .ok (.addReg 1 15) ∧
  decodeWord 0x8A5E = .ok (.shl 10) ∧ decodeWord 0xD1F3 = .ok (.drw 1 15 3) ∧
  decodeWord 0xE2A1 = .ok (.sknp 2) ∧ decodeWord 0xF30A = .ok (.ldVxK 3) ∧
  decodeWord 0xA2F0 = .ok (.ldI 0x2F0) ∧ decodeWord 0xFF65 = .ok (.loadBlock 15)

/-- Decoding the word, or the bytes, of any well-formed instruction gives it back (30_encoding.md R81, R82, R85). -/
def Obligations.DecodeOfEncodeIsTheInstruction : Prop :=
  ∀ i : Instr, i.wellFormed = true →
    decodeWord (encode i) = .ok i ∧
    ∀ rest : List Byte, decode (encodeBytes i ++ rest) = .ok (i, rest)

/-- A word decodes to an instruction exactly when its bits, less the nibbles 30_encoding.md R86 ignores, are that
instruction's word; and what is decoded is well-formed. -/
def Obligations.DecodedWordIsTheInstructionsWord : Prop :=
  ∀ (w : Word) (i : Instr),
    decodeWord w = .ok i ↔ i.wellFormed = true ∧ w &&& i.usedBits = encode i

/-- 30_encoding.md R87: the unrecognised words, by class, are exactly those that match no row of the opcode map. -/
def Obligations.UnrecognisedWordsAreThoseOfTheClassTable : Prop :=
  ∀ w : Word,
    ((∃ e, decodeWord w = .error e) ↔
      (classOf w = 0x0 ∧ kkOf w ≠ 0xE0 ∧ kkOf w ≠ 0xEE) ∨
      (classOf w = 0x8 ∧ (w.extractLsb' 0 4) ∈ [0x8#4, 0x9#4, 0xA#4, 0xB#4, 0xC#4, 0xD#4, 0xF#4]) ∨
      (classOf w = 0xE ∧ kkOf w ≠ 0x9E ∧ kkOf w ≠ 0xA1) ∨
      (classOf w = 0xF ∧
        kkOf w ∉ [0x07#8, 0x0A#8, 0x15#8, 0x18#8, 0x1E#8, 0x29#8, 0x33#8, 0x55#8, 0x65#8])) ∧
    ((∃ e, decodeWord w = .error e) ↔ ∀ row ∈ opcodeRows, w &&& row.1 ≠ row.2)

/-- 40_cycle.md R103: dispatch selects the single row of the opcode map that fits the word, or none. -/
def Obligations.DispatchSelectsTheSingleFittingRow : Prop :=
  ∀ w : Word,
    (∀ i, decodeWord w = .ok i →
      (i.mask, i.pattern) ∈ opcodeRows ∧ w &&& i.mask = i.pattern ∧
      ∀ row ∈ opcodeRows, w &&& row.1 = row.2 → row = (i.mask, i.pattern)) ∧
    (∀ e, decodeWord w = .error e → ∀ row ∈ opcodeRows, w &&& row.1 ≠ row.2)

/-! ## The cycle and the step -/

/-- When the bytes at `PC` decode to a well-formed instruction, a step that takes a cycle request is `exec` of it, then
the tick where it was requested (40_cycle.md R100; 20_memory.md R55, R56). With no move pending the host requests a
cycle whose tick input is a free value (log entry 3). -/
def Obligations.StepRunsTheDecodedInstruction : Prop :=
  ∀ (s : State) (i : Instr), s.status = .running → s.pc.toNat + 1 < 0x1000 → i.wellFormed = true →
    decodeWord (wordOfBytes (s.read s.pc.toNat) (s.read (s.pc.toNat + 1))) = .ok i →
    (∀ (ticks : Bool) (rest : List HostMove), s.inbox = .cycle ticks :: rest →
      step s = endCycle ticks (exec i (s.setInbox rest))) ∧
    (s.inbox = [] → step s = endCycle (Config.tickRequest s.tickDraws) (exec i s.countTickDraw))

/-- Every step answers a next state: the core has no undefined case, and every fault is taken (60_exceptions.md R205;
40_cycle.md R104). -/
def Obligations.EveryStepAnswersANextState : Prop :=
  ∀ s : State, ∃ t, step s = .next t

/-- 40_cycle.md R104 (decision D4): a cycle that takes a pending request, under the policy `Stall`: an unrecognised word
changes nothing and the tick step is reached. The clause `t.fetch = .ok w`, that the next fetch reads the same word, is
the spec's own inference, which R104 marks [derived: from rule R104 of this file and 20_memory.md rule R63]. -/
def Obligations.UnrecognisedWordStalls : Prop :=
  ∀ (s : State) (w : Word) (e : DecodeReject) (ticks : Bool) (rest : List HostMove),
    s.params.illegalPolicy = .stall → s.status = .running → s.inbox = .cycle ticks :: rest → s.fetch = .ok w →
    decodeWord w = .error e →
    ∃ t, step s = .next t ∧ t.fetch = .ok w ∧
      (ticks = false → t = s.setInbox rest) ∧ (ticks = true → t = tick (s.setInbox rest))

/-- 40_cycle.md R105: under the policy `Fault` an unrecognised word raises `IllegalInstruction` with the word and `PC`;
nothing but `STATUS` changes, so no tick is applied. The hardware's policy is `Stall` (the spec's decision D4, log
entry 11). -/
def Obligations.UnrecognisedWordFaultsUnderTheFaultPolicy : Prop :=
  ∀ (s : State) (w : Word) (e : DecodeReject) (ticks : Bool) (rest : List HostMove),
    s.params.illegalPolicy = .fault → s.status = .running → s.inbox = .cycle ticks :: rest → s.fetch = .ok w →
    decodeWord w = .error e →
    ∃ t, step s = .next t ∧ UnchangedBut [.status] (s.setInbox rest) t ∧
      t.status = .halted { cause := .illegalInstruction w, pc := s.pc, word := some w }

/-- 40_cycle.md R101: a fetch reads the word at `PC`; where `PC` or `PC + 1` is at or above 0x1000 the cycle halts with
`AddressOutOfRange` before decode, no word recorded, and does nothing else. -/
def Obligations.FetchPastMemoryHalts : Prop :=
  ∀ (s : State) (ticks : Bool) (rest : List HostMove),
    s.status = .running → s.inbox = .cycle ticks :: rest → 0x1000 ≤ s.pc.toNat + 1 →
    ∃ t, step s = .next t ∧ UnchangedBut [.status] (s.setInbox rest) t ∧
      t.status = .halted { cause := .addressOutOfRange (max s.pc.toNat 0x1000), pc := s.pc, word := none }

/-- 60_exceptions.md R219: the tick comes at the end of a cycle, after its instruction, only where it was requested, at
most once, and not in a cycle that faults. -/
def Obligations.TickEndsTheCycleThatRequestsIt : Prop :=
  ∀ (s u : State) (w : Word) (ticks : Bool) (rest : List HostMove),
    s.status = .running → s.inbox = .cycle ticks :: rest → s.fetch = .ok w →
    executeWord w (s.setInbox rest) = .next u →
    (ticks = true ∧ u.status = .running → step s = .next (tick u)) ∧
    (ticks = false ∨ u.status ≠ .running → step s = .next u)

/-- 40_cycle.md R107 (the spec's decision D6): a cycle request while halted does nothing, its tick included. -/
def Obligations.HaltedCoreIgnoresCycleRequests : Prop :=
  ∀ (s : State) (r : FaultRecord) (ticks : Bool) (rest : List HostMove),
    s.status = .halted r → s.inbox = .cycle ticks :: rest → step s = .next (s.setInbox rest)

/-- 60_exceptions.md R208 (the spec's decision D6): no step leaves `Halted`, an image load included; a halted core
executes nothing, so only what the key ports and a load write can change. -/
def Obligations.HaltedIsNeverLeft : Prop :=
  ∀ (s t : State) (r : FaultRecord), s.status = .halted r → step s = .next t →
    t.status = .halted r ∧ UnchangedBut [.keys, .mem, .pc, .i, .ports] s t

/-- 70_reset_and_hazards.md R255 (b): from a JP to its own address a cycle changes nothing but `DT`, `ST`, `DIRTY` and
the ports, and the self-loop stays. -/
def Obligations.SelfLoopStaysASelfLoop : Prop :=
  ∀ (s : State) (ticks : Bool) (rest : List HostMove), SelfLoop s → s.inbox = .cycle ticks :: rest →
    ∃ t, step s = .next t ∧ SelfLoop t ∧ UnchangedBut [.dt, .st, .dirty, .ports] s t ∧
      (ticks = false → t = s.setInbox rest)

/-! ## Faults -/

/-- 60_exceptions.md R201, R205, R206: an instruction that faults writes nothing but `STATUS`, which records its cause,
its `PC` and its word. -/
def Obligations.FaultingInstructionWritesOnlyStatus : Prop :=
  ∀ (i : Instr) (s t : State), s.status = .running → exec i s = .next t → t.status ≠ .running →
    ∃ cause, HaltsWith cause s t

/-- 60_exceptions.md R200: which cause code each instruction can raise; the others raise none. -/
def Obligations.EachInstructionRaisesOnlyItsCause : Prop :=
  ∀ (i : Instr) (s t : State) (r : FaultRecord), s.status = .running → exec i s = .next t →
    t.status = .halted r → r.cause.code = faultCode i

/-! ## Frames of all instructions -/

/-- 10_state.md R22 to R31, 20_memory.md R59: an instruction writes only the pieces of state and the registers listed
for it; no instruction writes the latch, and only CALL and RET touch the stack, CLS and DRW the frame buffer. -/
def Obligations.InstructionsWriteOnlyTheirState : Prop :=
  ∀ (i : Instr) (s t : State), exec i s = .next t →
    UnchangedBut (.v :: .pc :: .status :: piecesWritten i) s t ∧
    ∀ k : RegIdx, regsWritten i k = false → t.getV k = s.getV k

/-- 10_state.md R22: a register outside an instruction's read set does not influence what it does to anything else. -/
def Obligations.InstructionsReadOnlyTheirRegisters : Prop :=
  ∀ (i : Instr) (s t : State) (k : RegIdx) (b : Byte), regsRead i k = false → exec i s = .next t →
    ∃ u, exec i (s.setV k b) = .next u ∧
      (∀ p : Piece, p ≠ .v → samePiece p t u) ∧ ∀ j : RegIdx, j ≠ k → u.getV j = t.getV j

/-! ## The tick -/

/-- 60_exceptions.md R215 to R218: one tick decrements both timers while nonzero, emits the tone on the tick that brings
`ST` to zero and then the frame when `DIRTY`, clears `DIRTY`, and changes nothing else. -/
def Obligations.TickCountsDownAndEmits : Prop :=
  ∀ s : State,
    (tick s).dt.toNat = s.dt.toNat - 1 ∧ (tick s).st.toNat = s.st.toNat - 1 ∧ (tick s).dirty = false ∧
    (tick s).emitted = s.emitted
      ++ (if s.st.toNat = 1 then [PortEvent.tone (Config.toneMs 1)] else [])
      ++ (if s.dirty = true then [PortEvent.frame s.fb] else []) ∧
    (tick s).inbox = s.inbox ∧ (tick s).tickDraws = s.tickDraws ∧
    UnchangedBut [.dt, .st, .dirty, .ports] s (tick s)

/-- 60_exceptions.md R215, 95_test_vectors.md W8: `n` ticks take both timers down by `n`, with floor at zero. -/
def Obligations.TimersRunDownToZero : Prop :=
  ∀ (n : Nat) (s : State),
    (Nat.iterate tick n s).dt.toNat = s.dt.toNat - n ∧ (Nat.iterate tick n s).st.toNat = s.st.toNat - n

/-! ## The host's ports -/

/-- 60_exceptions.md R222: `key_down` and `key_up` write one latch bit in every `STATUS`; an index above 15 is answered
with an error and changes nothing. -/
def Obligations.KeyPortsWriteOneLatchBit : Prop :=
  ∀ (s : State) (k : Nat) (down : Bool) (rest : List HostMove),
    s.inbox = (if down then HostMove.keyDown k else HostMove.keyUp k) :: rest →
    ∃ t, step s = .next t ∧ t.inbox = rest ∧
      (k ≤ 15 → UnchangedBut [.keys, .ports] s t ∧ t.emitted = s.emitted ∧
        ∀ j : Fin 16, t.keys[j] = if j.val = k then down else s.keys[j]) ∧
      (15 < k → UnchangedBut [.ports] s t ∧ t.emitted = s.emitted ++ [PortEvent.keyError k])

/-- 70_reset_and_hazards.md R243, 60_exceptions.md R228: a load of at most 3584 bytes copies them to 0x200 upward, sets
`PC` and `I` to 0x200, changes nothing else, and answers success. That it does so in every `STATUS`, a halted core
included, is the spec's decision D14 as read in log entry 14 (DEDUCED). -/
def Obligations.LoadCopiesTheImage : Prop :=
  ∀ (s : State) (image : List Byte) (rest : List HostMove),
    MemoryCanonical s → s.inbox = .load (some image) :: rest → image.length ≤ 3584 →
    ∃ t, step s = .next t ∧ t.inbox = rest ∧ t.emitted = s.emitted ++ [PortEvent.loadAnswer true] ∧
      (∀ k : Nat, k < image.length → some (t.read (0x200 + k)) = image[k]?) ∧
      (∀ a : Nat, a < 0x200 ∨ 0x200 + image.length ≤ a → t.read a = s.read a) ∧
      t.pc = 0x200 ∧ t.i = 0x200 ∧ UnchangedBut [.mem, .pc, .i, .ports] s t

/-- 70_reset_and_hazards.md R244, R245: an unreadable source and an image of more than 3584 bytes are failed loads with
no state change (the bound is the spec's decision D14). -/
def Obligations.FailedLoadChangesNothing : Prop :=
  ∀ (s : State) (image : Option (List Byte)) (rest : List HostMove),
    s.inbox = .load image :: rest → (∀ bytes, image = some bytes → 3584 < bytes.length) →
    ∃ t, step s = .next t ∧ t.inbox = rest ∧ t.emitted = s.emitted ++ [PortEvent.loadAnswer false] ∧
      UnchangedBut [.ports] s t

/-- 60_exceptions.md R227 (the spec's decision D6): the status port answers `STATUS` and changes nothing, in every `STATUS`. -/
def Obligations.StatusPortAnswersStatus : Prop :=
  ∀ (s : State) (rest : List HostMove), s.inbox = .readStatus :: rest →
    ∃ t, step s = .next t ∧ t.inbox = rest ∧ t.emitted = s.emitted ++ [PortEvent.status s.status] ∧
      UnchangedBut [.ports] s t

/-! ## Invariants -/

/-- Every step, whatever the host's move, keeps the memory's canonical form (the model's form of 20_memory.md R50). -/
def Obligations.StepKeepsMemoryCanonical : Prop :=
  ∀ s t : State, MemoryCanonical s → step s = .next t → MemoryCanonical t

/-- 40_cycle.md R106: every step keeps `PC` and the return addresses in use within the values the rule lists, so `PC`
never wraps. -/
def Obligations.StepKeepsPcInRange : Prop :=
  ∀ s t : State, PcInRange s → step s = .next t → PcInRange t

/-- 10_state.md R25: every step keeps `SP` in `0..STACK_DEPTH`, whatever the depth. -/
def Obligations.StepKeepsStackWithinDepth : Prop :=
  ∀ s t : State, StackWithinDepth s → step s = .next t → StackWithinDepth t

/-- 10_state.md R36, 00_scope.md R11: the parameters are no state: no step, whatever the host's move, writes one. That
they are carried beside the state is the model's form (log entry 22). -/
def Obligations.StepNeverWritesTheParameters : Prop :=
  ∀ s t : State, step s = .next t → t.params = s.params

/-! ## Control transfer -/

/-- 41_control.md R120, R128: JP goes to `nnn` with no advance; JP V0 goes to `V[0] + nnn`, not reduced to 12 bits. -/
def Obligations.JumpsGoToTheirTargets : Prop :=
  ∀ (nnn : Word) (s : State),
    (∃ t, exec (.jp nnn) s = .next t ∧ t.pc = nnn ∧ UnchangedBut [.pc] s t) ∧
    (nnn.toNat < 0x1000 →
      ∃ t, exec (.jpV0 nnn) s = .next t ∧ t.pc.toNat = (s.getV 0).toNat + nnn.toNat ∧ UnchangedBut [.pc] s t)

/-- 41_control.md R122: CALL pushes its own address and jumps; with `SP` at `STACK_DEPTH` (256 in the hardware) it halts
with `StackOverflow` (the spec's decision D5). That the halting clause takes an `SP` above `STACK_DEPTH` too, in states
no run reaches, is the model's own choice, in no rule: log entry 17 (DESIGN CHOICE). -/
def Obligations.CallPushesItsOwnAddress : Prop :=
  ∀ (nnn : Word) (s : State),
    (s.sp.val < s.params.stackDepth.val →
      ∃ t, exec (.call nnn) s = .next t ∧ t.pc = nnn ∧ t.sp.val = s.sp.val + 1 ∧
        (∀ k : Fin 256, t.stack[k] = if k.val = s.sp.val then s.pc else s.stack[k]) ∧
        UnchangedBut [.stack, .pc] s t) ∧
    (s.params.stackDepth.val ≤ s.sp.val →
      ∃ t, exec (.call nnn) s = .next t ∧ HaltsWith (.stackOverflow s.sp.val) s t)

/-- 41_control.md R121: RET pops an address and goes to the word after it; on an empty stack it halts with
`StackUnderflow` (the spec's decision D5). -/
def Obligations.RetGoesToTheWordAfterThePoppedAddress : Prop :=
  ∀ s : State,
    (∀ k : Fin 256, s.sp.val = k.val + 1 →
      ∃ t, exec .ret s = .next t ∧ t.pc.toNat = (s.stack[k].toNat + 2) % 0x10000 ∧ t.sp.val = k.val ∧
        t.stack = s.stack ∧ UnchangedBut [.stack, .pc] s t) ∧
    (s.sp.val = 0 → ∃ t, exec .ret s = .next t ∧ HaltsWith (.stackUnderflow 0) s t)

/-- 41_control.md R121, R122: after a CALL, a RET in any state with the stack the CALL left resumes at the word after
the CALL, with the call depth as before it. -/
def Obligations.RetUndoesCall : Prop :=
  ∀ (nnn : Word) (s t u : State), s.sp.val < s.params.stackDepth.val → exec (.call nnn) s = .next t →
    u.sp = t.sp → u.stack = t.stack →
    ∃ r, exec .ret u = .next r ∧ AdvancedBy 2 s r ∧ r.sp = s.sp

/-- 41_control.md R123 to R127: the four skips advance by 4 where their condition holds, else by 2. -/
def Obligations.SkipsAdvanceByFourOrTwo : Prop :=
  ∀ (x y : RegIdx) (kk : Byte) (s : State),
    (∃ t, exec (.seImm x kk) s = .next t ∧ UnchangedBut [.pc] s t ∧
      AdvancedBy (if (s.getV x).toNat = kk.toNat then 4 else 2) s t) ∧
    (∃ t, exec (.sneImm x kk) s = .next t ∧ UnchangedBut [.pc] s t ∧
      AdvancedBy (if (s.getV x).toNat ≠ kk.toNat then 4 else 2) s t) ∧
    (∃ t, exec (.seReg x y) s = .next t ∧ UnchangedBut [.pc] s t ∧
      AdvancedBy (if (s.getV x).toNat = (s.getV y).toNat then 4 else 2) s t) ∧
    (∃ t, exec (.sneReg x y) s = .next t ∧ UnchangedBut [.pc] s t ∧
      AdvancedBy (if (s.getV x).toNat ≠ (s.getV y).toNat then 4 else 2) s t)

/-! ## ALU -/

/-- 42_alu.md R140, R142: LD Vx, kk and LD Vx, Vy write one register. -/
def Obligations.LoadsWriteOneRegister : Prop :=
  ∀ (x y : RegIdx) (kk : Byte) (s : State),
    (∃ t, exec (.ldImm x kk) s = .next t ∧ RegsAfter x kk.toNat s t ∧ AdvancedBy 2 s t ∧
      UnchangedBut [.v, .pc] s t) ∧
    (∃ t, exec (.ldReg x y) s = .next t ∧ RegsAfter x (s.getV y).toNat s t ∧ AdvancedBy 2 s t ∧
      UnchangedBut [.v, .pc] s t)

/-- 42_alu.md R141: ADD Vx, kk wraps at 8 bits and records no carry: VF changes only where it is the destination. -/
def Obligations.AddImmediateWrapsWithoutFlag : Prop :=
  ∀ (x : RegIdx) (kk : Byte) (s : State),
    ∃ t, exec (.addImm x kk) s = .next t ∧ RegsAfter x (((s.getV x).toNat + kk.toNat) % 256) s t ∧
      AdvancedBy 2 s t ∧ UnchangedBut [.v, .pc] s t

/-- 42_alu.md R143 to R145: OR, AND, XOR write their result and then clear VF. That the flag is last when `x = 15`
is the order of the rules' own pseudocode (R152, the spec's decision D12, log entry 10), here and in the next three. -/
def Obligations.LogicWritesResultAndClearsVf : Prop :=
  ∀ (x y : RegIdx) (s : State),
    (∃ t, exec (.orReg x y) s = .next t ∧ AdvancedBy 2 s t ∧ UnchangedBut [.v, .pc] s t ∧
      RegsAfterFlag x ((s.getV x).toNat ||| (s.getV y).toNat) 0 s t) ∧
    (∃ t, exec (.andReg x y) s = .next t ∧ AdvancedBy 2 s t ∧ UnchangedBut [.v, .pc] s t ∧
      RegsAfterFlag x ((s.getV x).toNat &&& (s.getV y).toNat) 0 s t) ∧
    (∃ t, exec (.xorReg x y) s = .next t ∧ AdvancedBy 2 s t ∧ UnchangedBut [.v, .pc] s t ∧
      RegsAfterFlag x ((s.getV x).toNat ^^^ (s.getV y).toNat) 0 s t)

/-- 42_alu.md R146: ADD Vx, Vy writes the sum mod 256 and then the carry. -/
def Obligations.AddWritesSumAndCarry : Prop :=
  ∀ (x y : RegIdx) (s : State),
    ∃ t, exec (.addReg x y) s = .next t ∧ AdvancedBy 2 s t ∧ UnchangedBut [.v, .pc] s t ∧
      RegsAfterFlag x (((s.getV x).toNat + (s.getV y).toNat) % 256)
        (if (s.getV x).toNat + (s.getV y).toNat > 255 then 1 else 0) s t

/-- 42_alu.md R147, R149: SUB and SUBN write the difference mod 256 and then no-borrow. -/
def Obligations.SubtractionsWriteDifferenceAndNoBorrow : Prop :=
  ∀ (x y : RegIdx) (s : State),
    (∃ t, exec (.subReg x y) s = .next t ∧ AdvancedBy 2 s t ∧ UnchangedBut [.v, .pc] s t ∧
      RegsAfterFlag x (((s.getV x).toNat + 256 - (s.getV y).toNat) % 256)
        (if (s.getV x).toNat ≥ (s.getV y).toNat then 1 else 0) s t) ∧
    (∃ t, exec (.subnReg x y) s = .next t ∧ AdvancedBy 2 s t ∧ UnchangedBut [.v, .pc] s t ∧
      RegsAfterFlag x (((s.getV y).toNat + 256 - (s.getV x).toNat) % 256)
        (if (s.getV y).toNat ≥ (s.getV x).toNat then 1 else 0) s t)

/-- 42_alu.md R148, R150: SHR and SHL shift `V[x]` by one and then put the bit shifted out into VF. -/
def Obligations.ShiftsPutTheBitShiftedOutIntoVf : Prop :=
  ∀ (x : RegIdx) (s : State),
    (∃ t, exec (.shr x) s = .next t ∧ AdvancedBy 2 s t ∧ UnchangedBut [.v, .pc] s t ∧
      RegsAfterFlag x ((s.getV x).toNat >>> 1) ((s.getV x).toNat &&& 1) s t) ∧
    (∃ t, exec (.shl x) s = .next t ∧ AdvancedBy 2 s t ∧ UnchangedBut [.v, .pc] s t ∧
      RegsAfterFlag x (((s.getV x).toNat <<< 1) % 256) ((s.getV x).toNat >>> 7) s t)

/-- 42_alu.md R151: RND writes one random byte under the mask. The byte is the free value of the draw, so this holds for
any byte; each RND takes a new draw (log entry 4). -/
def Obligations.RndWritesADrawnByteUnderTheMask : Prop :=
  ∀ (x : RegIdx) (kk : Byte) (s : State),
    ∃ t, exec (.rnd x kk) s = .next t ∧ t.randDraws = s.randDraws + 1 ∧
      RegsAfter x ((Config.randomByte s.randDraws).toNat &&& kk.toNat) s t ∧
      AdvancedBy 2 s t ∧ UnchangedBut [.v, .pc, .draws] s t

/-! ## Display -/

/-- 43_display.md R170: CLS makes every pixel false and sets `DIRTY` (the spec's decision D11). -/
def Obligations.ClsClearsEveryPixel : Prop :=
  ∀ s : State,
    ∃ t, exec .cls s = .next t ∧ (∀ r c : Nat, pixel t.fb r c = false) ∧ t.dirty = true ∧
      AdvancedBy 2 s t ∧ UnchangedBut [.fb, .dirty, .pc] s t

/-- 43_display.md R171: where the sprite's bytes are all in memory (always with `n = 0`), DRW XORs bit `j` of byte `i`
onto the pixel at row `V[y] + i` mod 32, column `V[x] + j` mod 64, leaves every other pixel, sets VF exactly when a 1
bit met a set pixel and `DIRTY` also when some bit is 1. Where a sprite byte lies at or above 0x1000 it halts with the
first such address and draws nothing (the spec's decision D3). -/
def Obligations.DrwXorsTheSprite : Prop :=
  ∀ (x y : RegIdx) (n : Fin 16) (s : State),
    (n.val = 0 ∨ s.i.toNat + n.val ≤ 0x1000 →
      ∃ t, exec (.drw x y n) s = .next t ∧
        (∀ i j : Nat, i < n.val → j < 8 →
          pixel t.fb ((s.getV y).toNat + i) ((s.getV x).toNat + j) =
            (pixel s.fb ((s.getV y).toNat + i) ((s.getV x).toNat + j) ^^ (s.read (s.i.toNat + i)).getMsbD j)) ∧
        (∀ r c : Nat,
          (∀ i j : Nat, i < n.val → j < 8 →
            ¬(((s.getV y).toNat + i) % 32 = r % 32 ∧ ((s.getV x).toNat + j) % 64 = c % 64)) →
          pixel t.fb r c = pixel s.fb r c) ∧
        (∀ k : RegIdx, k ≠ 15 → t.getV k = s.getV k) ∧
        ((∃ i j : Nat, i < n.val ∧ j < 8 ∧ (s.read (s.i.toNat + i)).getMsbD j = true ∧
            pixel s.fb ((s.getV y).toNat + i) ((s.getV x).toNat + j) = true) → t.getV 15 = 1) ∧
        ((¬∃ i j : Nat, i < n.val ∧ j < 8 ∧ (s.read (s.i.toNat + i)).getMsbD j = true ∧
            pixel s.fb ((s.getV y).toNat + i) ((s.getV x).toNat + j) = true) → t.getV 15 = 0) ∧
        (t.dirty = true ↔ s.dirty = true ∨ ∃ i : Nat, i < n.val ∧ s.read (s.i.toNat + i) ≠ 0) ∧
        AdvancedBy 2 s t ∧ UnchangedBut [.v, .fb, .dirty, .pc] s t) ∧
    (0 < n.val ∧ 0x1000 < s.i.toNat + n.val →
      ∃ t, exec (.drw x y n) s = .next t ∧ HaltsWith (.addressOutOfRange (max s.i.toNat 0x1000)) s t)

/-- 43_display.md R172 (b): a second draw of the same sprite at the same origin, with no other write to the frame buffer
in between, restores it, and its VF is 1 exactly when a 1 bit lands on a pixel that was false before the first. -/
def Obligations.DrawingTwiceRestoresTheFrameBuffer : Prop :=
  ∀ (x y : RegIdx) (n : Fin 16) (s t u : State),
    n.val = 0 ∨ s.i.toNat + n.val ≤ 0x1000 → exec (.drw x y n) s = .next t →
    u.fb = t.fb → (∀ a : Nat, u.read a = s.read a) → u.i = s.i → u.getV x = s.getV x → u.getV y = s.getV y →
    ∃ r, exec (.drw x y n) u = .next r ∧ r.fb = s.fb ∧
      (r.getV 15 = 1 ↔
        ∃ i j : Nat, i < n.val ∧ j < 8 ∧ (s.read (s.i.toNat + i)).getMsbD j = true ∧
          pixel s.fb ((s.getV y).toNat + i) ((s.getV x).toNat + j) = false)

/-! ## Keys and timer registers -/

/-- 44_keys_timers.md R180, R181, R186: SKP and SKNP test the latch at a register's value; above 15 they halt with
`KeyIndexOutOfRange` (the spec's decision D7). -/
def Obligations.KeySkipsTestTheLatch : Prop :=
  ∀ (x : RegIdx) (s : State),
    (∀ k : Fin 16, (s.getV x).toNat = k.val →
      (∃ t, exec (.skp x) s = .next t ∧ UnchangedBut [.pc] s t ∧
        AdvancedBy (if s.keys[k] = true then 4 else 2) s t) ∧
      (∃ t, exec (.sknp x) s = .next t ∧ UnchangedBut [.pc] s t ∧
        AdvancedBy (if s.keys[k] = true then 2 else 4) s t)) ∧
    (15 < (s.getV x).toNat →
      (∃ t, exec (.skp x) s = .next t ∧ HaltsWith (.keyIndexOutOfRange (s.getV x)) s t) ∧
      (∃ t, exec (.sknp x) s = .next t ∧ HaltsWith (.keyIndexOutOfRange (s.getV x)) s t))

/-- 44_keys_timers.md R183: with a key down LD Vx, K stores the least one and advances; with none down nothing changes,
`PC` included. -/
def Obligations.KeyWaitTakesTheLowestKey : Prop :=
  ∀ (x : RegIdx) (s : State),
    (∀ k : Fin 16, s.keys[k] = true → (∀ j : Fin 16, j < k → s.keys[j] = false) →
      ∃ t, exec (.ldVxK x) s = .next t ∧ RegsAfter x k.val s t ∧ AdvancedBy 2 s t ∧
        UnchangedBut [.v, .pc] s t) ∧
    ((∀ k : Fin 16, s.keys[k] = false) → exec (.ldVxK x) s = .next s)

/-- 44_keys_timers.md R182, R184, R185: the timer registers are read and written whole; no tone event at the write. -/
def Obligations.TimerRegistersAreCopied : Prop :=
  ∀ (x : RegIdx) (s : State),
    (∃ t, exec (.ldVxDt x) s = .next t ∧ RegsAfter x s.dt.toNat s t ∧ AdvancedBy 2 s t ∧
      UnchangedBut [.v, .pc] s t) ∧
    (∃ t, exec (.ldDtVx x) s = .next t ∧ t.dt = s.getV x ∧ AdvancedBy 2 s t ∧ UnchangedBut [.dt, .pc] s t) ∧
    (∃ t, exec (.ldStVx x) s = .next t ∧ t.st = s.getV x ∧ AdvancedBy 2 s t ∧ UnchangedBut [.st, .pc] s t)

/-! ## Address register and memory transfers -/

/-- 45_index_memory.md R190 to R192: LD I, ADD I (mod 0x10000, no flag), LD F (times 5, unmasked) write `I` alone.
The reduction mod 0x10000 is the spec's decision D13. -/
def Obligations.AddressRegisterInstructionsWriteI : Prop :=
  ∀ (x : RegIdx) (nnn : Word) (s : State),
    (∃ t, exec (.ldI nnn) s = .next t ∧ t.i = nnn ∧ AdvancedBy 2 s t ∧ UnchangedBut [.i, .pc] s t) ∧
    (∃ t, exec (.addI x) s = .next t ∧ t.i.toNat = (s.i.toNat + (s.getV x).toNat) % 0x10000 ∧
      AdvancedBy 2 s t ∧ UnchangedBut [.i, .pc] s t) ∧
    (∃ t, exec (.ldF x) s = .next t ∧ t.i.toNat = (s.getV x).toNat * 5 ∧
      AdvancedBy 2 s t ∧ UnchangedBut [.i, .pc] s t)

/-- 45_index_memory.md R193: LD B stores the hundreds, tens and ones at `I`, `I + 1`, `I + 2` and nothing else; where
one of them is at or above 0x1000 it halts with the first such address and stores nothing (the spec's decision D3). -/
def Obligations.BcdStoresThreeDigits : Prop :=
  ∀ (x : RegIdx) (s : State), MemoryCanonical s →
    (s.i.toNat + 2 < 0x1000 →
      ∃ t, exec (.ldB x) s = .next t ∧
        (t.read s.i.toNat).toNat = (s.getV x).toNat / 100 ∧
        (t.read (s.i.toNat + 1)).toNat = (s.getV x).toNat / 10 % 10 ∧
        (t.read (s.i.toNat + 2)).toNat = (s.getV x).toNat % 10 ∧
        (∀ a : Nat, a < s.i.toNat ∨ s.i.toNat + 2 < a → t.read a = s.read a) ∧
        AdvancedBy 2 s t ∧ UnchangedBut [.mem, .pc] s t) ∧
    (0x1000 ≤ s.i.toNat + 2 →
      ∃ t, exec (.ldB x) s = .next t ∧ HaltsWith (.addressOutOfRange (max s.i.toNat 0x1000)) s t)

/-- 45_index_memory.md R194: LD [I], Vx stores `V[0]` to `V[x]` from `I` on and moves `I` past them; where the block
reaches 0x1000 it halts with the first bad address and stores nothing (the spec's
decision D3). -/
def Obligations.BlockStoreWritesRegistersToMemory : Prop :=
  ∀ (x : RegIdx) (s : State), MemoryCanonical s →
    (s.i.toNat + x.val < 0x1000 →
      ∃ t, exec (.storeBlock x) s = .next t ∧
        (∀ k : RegIdx, k ≤ x → t.read (s.i.toNat + k.val) = s.getV k) ∧
        (∀ a : Nat, a < s.i.toNat ∨ s.i.toNat + x.val < a → t.read a = s.read a) ∧
        t.i.toNat = s.i.toNat + x.val + 1 ∧ AdvancedBy 2 s t ∧ UnchangedBut [.mem, .i, .pc] s t) ∧
    (0x1000 ≤ s.i.toNat + x.val →
      ∃ t, exec (.storeBlock x) s = .next t ∧ HaltsWith (.addressOutOfRange (max s.i.toNat 0x1000)) s t)

/-- 45_index_memory.md R195: LD Vx, [I] loads `V[0]` to `V[x]` from `I` on and moves `I` past them; where the block
reaches 0x1000 it halts with the first bad address and loads nothing (the spec's decision D3). -/
def Obligations.BlockLoadReadsRegistersFromMemory : Prop :=
  ∀ (x : RegIdx) (s : State),
    (s.i.toNat + x.val < 0x1000 →
      ∃ t, exec (.loadBlock x) s = .next t ∧
        (∀ k : RegIdx, t.getV k = if k ≤ x then s.read (s.i.toNat + k.val) else s.getV k) ∧
        t.i.toNat = s.i.toNat + x.val + 1 ∧ AdvancedBy 2 s t ∧ UnchangedBut [.v, .i, .pc] s t) ∧
    (0x1000 ≤ s.i.toNat + x.val →
      ∃ t, exec (.loadBlock x) s = .next t ∧ HaltsWith (.addressOutOfRange (max s.i.toNat 0x1000)) s t)

/-- 45_index_memory.md R196: a block store, `I` rewound, and a block load leave `V[0]` to `V[x]` as they were at the
store and `I` at its old value plus `x + 1`. -/
def Obligations.BlockStoreThenLoadRestores : Prop :=
  ∀ (x : RegIdx) (s t u : State), MemoryCanonical s → s.i.toNat + x.val < 0x1000 →
    exec (.storeBlock x) s = .next t → (∀ a : Nat, u.read a = t.read a) → u.i = s.i →
    ∃ r, exec (.loadBlock x) u = .next r ∧ (∀ k : RegIdx, k ≤ x → r.getV k = s.getV k) ∧
      r.i.toNat = s.i.toNat + x.val + 1

/-- 20_memory.md R66: a store to code is seen by the next fetch: a block stored over the next word is the word fetched
there. -/
def Obligations.StoreToCodeIsSeenByTheNextFetch : Prop :=
  ∀ (x : RegIdx) (s t : State), MemoryCanonical s → 1 ≤ x.val → s.i.toNat + x.val < 0x1000 →
    s.i.toNat = s.pc.toNat + 2 → exec (.storeBlock x) s = .next t →
    t.fetch = .ok (wordOfBytes (s.getV 0) (s.getV 1))
end

