-- ==== Sys2Proof/Laws/Decode.lean ====
section
/-!
SUPPORT. The fields of a word and of the encoder's words as arithmetic, so that decoding an encoded word is linear
arithmetic; and the bytes of a word (30_encoding.md R81; 20_memory.md R55).
-/

namespace Sys2Proof

/-! ## Fields as arithmetic -/

theorem toNat_classOf (w : Word) : (classOf w).toNat = w.toNat / 0x1000 := by
  have := w.isLt
  simp only [classOf, BitVec.extractLsb'_toNat, Nat.shiftRight_eq_div_pow]
  omega

theorem toNat_kkOf (w : Word) : (kkOf w).toNat = w.toNat % 0x100 := by
  simp [kkOf, BitVec.extractLsb'_toNat]

theorem val_xOf (w : Word) : (xOf w).val = w.toNat / 0x100 % 0x10 := by
  simp [xOf, BitVec.extractLsb'_toNat, Nat.shiftRight_eq_div_pow]

theorem val_yOf (w : Word) : (yOf w).val = w.toNat / 0x10 % 0x10 := by
  simp [yOf, BitVec.extractLsb'_toNat, Nat.shiftRight_eq_div_pow]

theorem val_nOf (w : Word) : (nOf w).val = w.toNat % 0x10 := by
  simp [nOf, BitVec.extractLsb'_toNat]

theorem toNat_nnnOf (w : Word) : (nnnOf w).toNat = w.toNat % 0x1000 := by
  have : (0x0FFF : Nat) = 2 ^ 12 - 1 := rfl
  simp only [nnnOf, BitVec.toNat_and, BitVec.toNat_ofNat]
  rw [show (0x0FFF % 2 ^ 16 : Nat) = 2 ^ 12 - 1 from rfl, Nat.and_two_pow_sub_one_eq_mod]

/-- The address field is a 12-bit one. -/
theorem addr12_nnnOf (w : Word) : addr12 (nnnOf w) = true := by
  simp only [addr12, toNat_nnnOf, decide_eq_true_eq, Config.memSize]
  omega

/-! ## Bytes of a word -/

theorem toNat_wordOfBytes (hi lo : Byte) : (wordOfBytes hi lo).toNat = hi.toNat * 0x100 + lo.toNat := by
  have := lo.isLt
  have h : (hi ++ lo : BitVec (8 + 8)).toNat = hi.toNat * 0x100 + lo.toNat := by
    rw [BitVec.toNat_append, ← Nat.shiftLeft_add_eq_or_of_lt lo.isLt, Nat.shiftLeft_eq]
  exact h

theorem toNat_highByte (w : Word) : (highByte w).toNat = w.toNat / 0x100 := by
  have := w.isLt
  simp only [highByte, BitVec.extractLsb'_toNat, Nat.shiftRight_eq_div_pow]
  omega

theorem toNat_lowByte (w : Word) : (lowByte w).toNat = w.toNat % 0x100 := by
  simp [lowByte, BitVec.extractLsb'_toNat]

@[simp] theorem wordOfBytes_bytes (w : Word) : wordOfBytes (highByte w) (lowByte w) = w := by
  apply BitVec.eq_of_toNat_eq
  rw [toNat_wordOfBytes, toNat_highByte, toNat_lowByte]
  omega

/-! ## The encoder's shapes -/

theorem toNat_wordCNnn {c : Nat} (hc : c < 16) (nnn : Word) :
    (wordCNnn c nnn).toNat = c * 0x1000 + nnn.toNat % 0x1000 := by
  simp only [wordCNnn, BitVec.toNat_ofNat]
  omega

theorem toNat_wordCXkk {c : Nat} (hc : c < 16) (x : RegIdx) (kk : Byte) :
    (wordCXkk c x kk).toNat = c * 0x1000 + x.val * 0x100 + kk.toNat := by
  have := x.isLt; have := kk.isLt
  simp only [wordCXkk, BitVec.toNat_ofNat]
  omega

theorem toNat_wordCXyn {c : Nat} (hc : c < 16) (x y n : Fin 16) :
    (wordCXyn c x y n).toNat = c * 0x1000 + x.val * 0x100 + y.val * 0x10 + n.val := by
  have := x.isLt; have := y.isLt; have := n.isLt
  simp only [wordCXyn, BitVec.toNat_ofNat]
  omega

/-- Shape `c nnn`: the class, and the address where it is a 12-bit one. -/
theorem fields_wordCNnn {c : Nat} (hc : c < 16) (nnn : Word) :
    (classOf (wordCNnn c nnn)).toNat = c ∧ (addr12 nnn = true → nnnOf (wordCNnn c nnn) = nnn) := by
  refine ⟨?_, fun h => BitVec.eq_of_toNat_eq ?_⟩
  · rw [toNat_classOf, toNat_wordCNnn hc]; omega
  · simp only [addr12, decide_eq_true_eq, Config.memSize] at h
    rw [toNat_nnnOf, toNat_wordCNnn hc]; omega

/-- Shape `c x kk`: its three fields. -/
theorem fields_wordCXkk {c : Nat} (hc : c < 16) (x : RegIdx) (kk : Byte) :
    (classOf (wordCXkk c x kk)).toNat = c ∧ xOf (wordCXkk c x kk) = x ∧ kkOf (wordCXkk c x kk) = kk := by
  have := x.isLt; have := kk.isLt
  refine ⟨?_, Fin.ext ?_, BitVec.eq_of_toNat_eq ?_⟩
  · rw [toNat_classOf, toNat_wordCXkk hc]; omega
  · rw [val_xOf, toNat_wordCXkk hc]; omega
  · rw [toNat_kkOf, toNat_wordCXkk hc]; omega

/-- Shape `c x y n`: its four fields. -/
theorem fields_wordCXyn {c : Nat} (hc : c < 16) (x y n : Fin 16) :
    (classOf (wordCXyn c x y n)).toNat = c ∧ xOf (wordCXyn c x y n) = x ∧ yOf (wordCXyn c x y n) = y ∧
      nOf (wordCXyn c x y n) = n := by
  have := x.isLt; have := y.isLt; have := n.isLt
  refine ⟨?_, Fin.ext ?_, Fin.ext ?_, Fin.ext ?_⟩
  · rw [toNat_classOf, toNat_wordCXyn hc]; omega
  · rw [val_xOf, toNat_wordCXyn hc]; omega
  · rw [val_yOf, toNat_wordCXyn hc]; omega
  · rw [val_nOf, toNat_wordCXyn hc]; omega

/-! ## The masks of the opcode map as arithmetic -/

/-- A mask that keeps the bits from `s` up and those below `k`. -/
theorem toNat_and_mask (w : Word) {s k : Nat} (hs : s ≤ 16) (hk : k ≤ s) :
    (w &&& BitVec.ofNat 16 ((2 ^ (16 - s) - 1) * 2 ^ s + (2 ^ k - 1))).toNat =
      w.toNat / 2 ^ s * 2 ^ s + w.toNat % 2 ^ k := by
  have hw := w.isLt
  have hp : 2 ^ k ≤ 2 ^ s := Nat.pow_le_pow_right (by omega) hk
  have hk0 : 0 < 2 ^ k := Nat.two_pow_pos k
  have hs0 : 0 < 2 ^ (16 - s) := Nat.two_pow_pos _
  have htop : (2 ^ (16 - s) - 1) * 2 ^ s + 2 ^ s = 2 ^ 16 := by
    rw [← Nat.succ_mul, Nat.succ_eq_add_one, Nat.sub_add_cancel hs0, ← Nat.pow_add, Nat.sub_add_cancel hs]
  have hm : ((2 ^ (16 - s) - 1) * 2 ^ s + (2 ^ k - 1)) % 2 ^ 16 = (2 ^ (16 - s) - 1) <<< s ||| (2 ^ k - 1) := by
    rw [Nat.mod_eq_of_lt (by omega), ← Nat.shiftLeft_add_eq_or_of_lt (by omega), Nat.shiftLeft_eq]
  rw [BitVec.toNat_and, BitVec.toNat_ofNat, hm, Nat.and_or_distrib_left, Nat.and_two_pow_sub_one_eq_mod]
  have hhi : w.toNat &&& (2 ^ (16 - s) - 1) <<< s = (w.toNat / 2 ^ s) <<< s := by
    apply Nat.eq_of_testBit_eq
    intro j
    simp only [Nat.testBit_and, Nat.testBit_shiftLeft, Nat.testBit_div_two_pow, Nat.testBit_two_pow_sub_one]
    by_cases hj : s ≤ j
    · rw [Nat.sub_add_cancel hj]
      by_cases hj' : j < 16
      · have : j - s < 16 - s := by omega
        simp [hj, this]
      · have hz : w.toNat.testBit j = false :=
          Nat.testBit_lt_two_pow (Nat.lt_of_lt_of_le hw (Nat.pow_le_pow_right (by omega) (by omega)))
        simp [hz]
    · simp [hj]
  rw [hhi, ← Nat.shiftLeft_add_eq_or_of_lt (Nat.lt_of_lt_of_le (Nat.mod_lt _ hk0) hp), Nat.shiftLeft_eq]

theorem toNat_and_F000 (w : Word) : (w &&& 0xF000#16).toNat = w.toNat / 0x1000 * 0x1000 := by
  simpa [Nat.mod_one] using toNat_and_mask w (s := 12) (k := 0) (by omega) (by omega)

theorem toNat_and_F00F (w : Word) : (w &&& 0xF00F#16).toNat = w.toNat / 0x1000 * 0x1000 + w.toNat % 0x10 :=
  toNat_and_mask w (s := 12) (k := 4) (by omega) (by omega)

theorem toNat_and_F0FF (w : Word) : (w &&& 0xF0FF#16).toNat = w.toNat / 0x1000 * 0x1000 + w.toNat % 0x100 :=
  toNat_and_mask w (s := 12) (k := 8) (by omega) (by omega)

theorem toNat_and_FF0F (w : Word) : (w &&& 0xFF0F#16).toNat = w.toNat / 0x100 * 0x100 + w.toNat % 0x10 :=
  toNat_and_mask w (s := 8) (k := 4) (by omega) (by omega)

theorem toNat_and_FFF0 (w : Word) : (w &&& 0xFFF0#16).toNat = w.toNat / 0x10 * 0x10 := by
  simpa [Nat.mod_one] using toNat_and_mask w (s := 4) (k := 0) (by omega) (by omega)

theorem toNat_and_FFFF (w : Word) : (w &&& 0xFFFF#16).toNat = w.toNat := by
  simpa [Nat.mod_one] using toNat_and_mask w (s := 0) (k := 0) (by omega) (by omega)

end Sys2Proof
end

