-- ==== Sys2Proof/Laws/Memory.lean ====
section
/-!
SUPPORT. The laws of memory: reading after writing, the canonical form kept by every memory operation, and the checks
of a block of addresses (20_memory.md R50, R58).
-/

namespace Sys2Proof.Machine

variable {f : Font}

/-! ## The canonical form -/

/-- The form's parts at a listed byte. -/
theorem memWfFrom_cons {least a : Nat} {b : Byte} {m : Memory} :
    memWfFrom f least ((a, b) :: m) = true ↔
      least ≤ a ∧ a < Config.memSize ∧ b ≠ memInit f a ∧ memWfFrom f (a + 1) m = true := by
  simp [memWfFrom, and_assoc]

/-- A form from a higher address is one from a lower. -/
theorem memWfFrom_mono {l l' : Nat} {m : Memory} (hl : l' ≤ l) (h : memWfFrom f l m = true) :
    memWfFrom f l' m = true := by
  cases m with
  | nil => rfl
  | cons c m =>
    obtain ⟨a, b⟩ := c
    rw [memWfFrom_cons] at h ⊢
    exact ⟨by omega, h.2⟩

/-- Below its least address a memory reads as the reset contents. -/
theorem memRead_below {l a : Nat} {m : Memory} (h : memWfFrom f l m = true) (ha : a < l) :
    memRead f m a = memInit f a := by
  induction m generalizing l with
  | nil => rfl
  | cons c m ih =>
    obtain ⟨a', b⟩ := c
    rw [memWfFrom_cons] at h
    simp only [memRead]
    rw [if_neg (by omega), ih h.2.2.2 (by omega)]

/-- Putting a byte in front keeps the form. -/
theorem memWfFrom_memCons {l a : Nat} {b : Byte} {m : Memory} (hl : l ≤ a) (ha : a < Config.memSize)
    (h : memWfFrom f (a + 1) m = true) : memWfFrom f l (memCons f a b m) = true := by
  unfold memCons
  split
  · exact memWfFrom_mono (by omega) h
  · rw [memWfFrom_cons]; exact ⟨hl, ha, ‹_›, h⟩

/-- A store keeps the form. -/
theorem memWfFrom_memWrite {l a : Nat} {b : Byte} {m : Memory} (hl : l ≤ a) (ha : a < Config.memSize)
    (h : memWfFrom f l m = true) : memWfFrom f l (memWrite f m a b) = true := by
  induction m generalizing l with
  | nil => exact memWfFrom_memCons hl ha rfl
  | cons c m ih =>
    obtain ⟨a', b'⟩ := c
    rw [memWfFrom_cons] at h
    simp only [memWrite]
    split
    · refine memWfFrom_memCons hl ha ?_
      rw [memWfFrom_cons]; exact ⟨by omega, h.2⟩
    · split
      · subst a'; exact memWfFrom_memCons hl ha h.2.2.2
      · rw [memWfFrom_cons]
        exact ⟨h.1, h.2.1, h.2.2.1, ih (by omega) h.2.2.2⟩

/-- A store inside the address space keeps the canonical form. -/
theorem wf_memWrite {m : Memory} {a : Nat} {b : Byte} (ha : a < Config.memSize) (h : Memory.wf f m = true) :
    Memory.wf f (memWrite f m a b) = true :=
  memWfFrom_memWrite (Nat.zero_le _) ha h

/-- A block stored inside the address space keeps the canonical form. -/
theorem wf_writeBlock {m : Memory} {a : Nat} {bs : List Byte} (ha : a + bs.length ≤ Config.memSize)
    (h : Memory.wf f m = true) : Memory.wf f (writeBlock f m a bs) = true := by
  induction bs generalizing m a with
  | nil => exact h
  | cons b bs ih =>
    simp only [List.length_cons] at ha
    exact ih (by omega) (wf_memWrite (by omega) h)

/-- The memory right after construction has the canonical form. -/
theorem wf_resetWith (p : Params) : Memory.wf p.font (State.resetWith p).mem = true := rfl

/-! ## Reading after writing -/

/-- Reading after a byte was put in front of addresses above it. -/
theorem memRead_memCons {a c : Nat} {b : Byte} {m : Memory} (h : memWfFrom f (a + 1) m = true) :
    memRead f (memCons f a b m) c = if c = a then b else memRead f m c := by
  unfold memCons
  split
  · split
    · subst c; rw [memRead_below h (Nat.lt_succ_self a)]; exact (Eq.symm ‹_›)
    · rfl
  · rfl

/-- Reading after a store. -/
theorem memRead_memWriteFrom {l a c : Nat} {b : Byte} {m : Memory} (h : memWfFrom f l m = true) :
    memRead f (memWrite f m a b) c = if c = a then b else memRead f m c := by
  induction m generalizing l with
  | nil => exact memRead_memCons rfl
  | cons e m ih =>
    obtain ⟨a', b'⟩ := e
    rw [memWfFrom_cons] at h
    simp only [memWrite]
    split
    · refine memRead_memCons ?_
      rw [memWfFrom_cons]; exact ⟨by omega, h.2⟩
    · split
      · subst a'
        rw [memRead_memCons h.2.2.2]
        simp only [memRead]
        split <;> rfl
      · simp only [memRead]
        rw [ih h.2.2.2]
        split
        · rw [if_neg (by omega)]
        · rfl

/-- Reading after a store to a canonical memory: the stored byte at its address, everything else as before. -/
theorem memRead_memWrite {m : Memory} (h : Memory.wf f m = true) (a c : Nat) (b : Byte) :
    memRead f (memWrite f m a b) c = if c = a then b else memRead f m c :=
  memRead_memWriteFrom h

/-- Reading after a block was stored: its bytes at its addresses, everything else as before. -/
theorem memRead_writeBlock {m : Memory} {a : Nat} {bs : List Byte} (h : Memory.wf f m = true)
    (ha : a + bs.length ≤ Config.memSize) (c : Nat) :
    memRead f (writeBlock f m a bs) c = if a ≤ c then (bs[c - a]?).getD (memRead f m c) else memRead f m c := by
  induction bs generalizing m a with
  | nil => simp [writeBlock]
  | cons b bs ih =>
    simp only [List.length_cons] at ha
    simp only [writeBlock]
    rw [ih (wf_memWrite (by omega) h) (by omega), memRead_memWrite h]
    by_cases h1 : c = a
    · subst c; simp
    · by_cases h2 : a + 1 ≤ c
      · rw [if_pos h2, if_neg h1, if_pos (by omega)]
        obtain ⟨d, rfl⟩ : ∃ d, c = a + 1 + d := ⟨c - (a + 1), by omega⟩
        have e1 : a + 1 + d - (a + 1) = d := by omega
        have e2 : a + 1 + d - a = d + 1 := by omega
        rw [e1, e2, List.getElem?_cons_succ]
      · rw [if_neg h2, if_neg h1, if_neg (by omega)]

/-! ## Blocks -/

@[simp] theorem length_readBlock (f : Font) (m : Memory) (a len : Nat) : (readBlock f m a len).length = len := by
  induction len generalizing a with
  | zero => rfl
  | succ n ih => simp [readBlock, ih]

/-- The k-th byte of a block read. -/
theorem getElem?_readBlock (f : Font) (m : Memory) (a len k : Nat) :
    (readBlock f m a len)[k]? = if k < len then some (memRead f m (a + k)) else none := by
  induction len generalizing a k with
  | zero => simp [readBlock]
  | succ n ih =>
    cases k with
    | zero => simp [readBlock]
    | succ k =>
      simp only [readBlock, List.getElem?_cons_succ, ih, Nat.add_lt_add_iff_right]
      have : a + 1 + k = a + (k + 1) := by omega
      rw [this]

/-- A block is accepted exactly when it is empty or ends at or below 0x1000. -/
theorem checkBlock_ok {a len : Nat} (h : len = 0 ∨ a + len ≤ Config.memSize) : checkBlock a len = .ok () := by
  simp [checkBlock, firstBadAddress, h]

/-- A block that reaches past the address space is rejected with its first address there. -/
theorem checkBlock_error {a len : Nat} (h : ¬(len = 0 ∨ a + len ≤ Config.memSize)) :
    checkBlock a len = .error (.addressOutOfRange (max a Config.memSize)) := by
  simp only [checkBlock, firstBadAddress, if_neg h]

/-- Everything the block check can answer. -/
theorem checkBlock_cases (a len : Nat) :
    ((len = 0 ∨ a + len ≤ Config.memSize) ∧ checkBlock a len = .ok ()) ∨
      (¬(len = 0 ∨ a + len ≤ Config.memSize) ∧
        checkBlock a len = .error (.addressOutOfRange (max a Config.memSize))) := by
  by_cases h : len = 0 ∨ a + len ≤ Config.memSize
  · exact .inl ⟨h, checkBlock_ok h⟩
  · exact .inr ⟨h, checkBlock_error h⟩

end Sys2Proof.Machine
end

