-- ==== Sys2Proof/Laws/State.lean ====
section
/-!
SUPPORT. What each update does to each field of the state: one lemma per field per update, true by unfolding, so that
no later proof unfolds a record update.
-/

namespace Sys2Proof.Machine

/-! ## setV -/

section
variable (s : State) (x : RegIdx) (b : Byte)

@[simp] theorem setV_params : (s.setV x b).params = s.params := rfl
@[simp] theorem setV_v : (s.setV x b).v = s.v.set x b := rfl
@[simp] theorem setV_i : (s.setV x b).i = s.i := rfl
@[simp] theorem setV_pc : (s.setV x b).pc = s.pc := rfl
@[simp] theorem setV_sp : (s.setV x b).sp = s.sp := rfl
@[simp] theorem setV_stack : (s.setV x b).stack = s.stack := rfl
@[simp] theorem setV_dt : (s.setV x b).dt = s.dt := rfl
@[simp] theorem setV_st : (s.setV x b).st = s.st := rfl
@[simp] theorem setV_keys : (s.setV x b).keys = s.keys := rfl
@[simp] theorem setV_fb : (s.setV x b).fb = s.fb := rfl
@[simp] theorem setV_dirty : (s.setV x b).dirty = s.dirty := rfl
@[simp] theorem setV_status : (s.setV x b).status = s.status := rfl
@[simp] theorem setV_mem : (s.setV x b).mem = s.mem := rfl
@[simp] theorem setV_inbox : (s.setV x b).inbox = s.inbox := rfl
@[simp] theorem setV_emitted : (s.setV x b).emitted = s.emitted := rfl
@[simp] theorem setV_randDraws : (s.setV x b).randDraws = s.randDraws := rfl
@[simp] theorem setV_tickDraws : (s.setV x b).tickDraws = s.tickDraws := rfl

end

/-! ## setRegs -/

section
variable (s : State) (r : Vector Byte 16)

@[simp] theorem setRegs_params : (s.setRegs r).params = s.params := rfl
@[simp] theorem setRegs_v : (s.setRegs r).v = r := rfl
@[simp] theorem setRegs_i : (s.setRegs r).i = s.i := rfl
@[simp] theorem setRegs_pc : (s.setRegs r).pc = s.pc := rfl
@[simp] theorem setRegs_sp : (s.setRegs r).sp = s.sp := rfl
@[simp] theorem setRegs_stack : (s.setRegs r).stack = s.stack := rfl
@[simp] theorem setRegs_dt : (s.setRegs r).dt = s.dt := rfl
@[simp] theorem setRegs_st : (s.setRegs r).st = s.st := rfl
@[simp] theorem setRegs_keys : (s.setRegs r).keys = s.keys := rfl
@[simp] theorem setRegs_fb : (s.setRegs r).fb = s.fb := rfl
@[simp] theorem setRegs_dirty : (s.setRegs r).dirty = s.dirty := rfl
@[simp] theorem setRegs_status : (s.setRegs r).status = s.status := rfl
@[simp] theorem setRegs_mem : (s.setRegs r).mem = s.mem := rfl
@[simp] theorem setRegs_inbox : (s.setRegs r).inbox = s.inbox := rfl
@[simp] theorem setRegs_emitted : (s.setRegs r).emitted = s.emitted := rfl
@[simp] theorem setRegs_randDraws : (s.setRegs r).randDraws = s.randDraws := rfl
@[simp] theorem setRegs_tickDraws : (s.setRegs r).tickDraws = s.tickDraws := rfl

end

/-! ## setI -/

section
variable (s : State) (w : Word)

@[simp] theorem setI_params : (s.setI w).params = s.params := rfl
@[simp] theorem setI_v : (s.setI w).v = s.v := rfl
@[simp] theorem setI_i : (s.setI w).i = w := rfl
@[simp] theorem setI_pc : (s.setI w).pc = s.pc := rfl
@[simp] theorem setI_sp : (s.setI w).sp = s.sp := rfl
@[simp] theorem setI_stack : (s.setI w).stack = s.stack := rfl
@[simp] theorem setI_dt : (s.setI w).dt = s.dt := rfl
@[simp] theorem setI_st : (s.setI w).st = s.st := rfl
@[simp] theorem setI_keys : (s.setI w).keys = s.keys := rfl
@[simp] theorem setI_fb : (s.setI w).fb = s.fb := rfl
@[simp] theorem setI_dirty : (s.setI w).dirty = s.dirty := rfl
@[simp] theorem setI_status : (s.setI w).status = s.status := rfl
@[simp] theorem setI_mem : (s.setI w).mem = s.mem := rfl
@[simp] theorem setI_inbox : (s.setI w).inbox = s.inbox := rfl
@[simp] theorem setI_emitted : (s.setI w).emitted = s.emitted := rfl
@[simp] theorem setI_randDraws : (s.setI w).randDraws = s.randDraws := rfl
@[simp] theorem setI_tickDraws : (s.setI w).tickDraws = s.tickDraws := rfl

end

/-! ## setPc -/

section
variable (s : State) (w : Word)

@[simp] theorem setPc_params : (s.setPc w).params = s.params := rfl
@[simp] theorem setPc_v : (s.setPc w).v = s.v := rfl
@[simp] theorem setPc_i : (s.setPc w).i = s.i := rfl
@[simp] theorem setPc_pc : (s.setPc w).pc = w := rfl
@[simp] theorem setPc_sp : (s.setPc w).sp = s.sp := rfl
@[simp] theorem setPc_stack : (s.setPc w).stack = s.stack := rfl
@[simp] theorem setPc_dt : (s.setPc w).dt = s.dt := rfl
@[simp] theorem setPc_st : (s.setPc w).st = s.st := rfl
@[simp] theorem setPc_keys : (s.setPc w).keys = s.keys := rfl
@[simp] theorem setPc_fb : (s.setPc w).fb = s.fb := rfl
@[simp] theorem setPc_dirty : (s.setPc w).dirty = s.dirty := rfl
@[simp] theorem setPc_status : (s.setPc w).status = s.status := rfl
@[simp] theorem setPc_mem : (s.setPc w).mem = s.mem := rfl
@[simp] theorem setPc_inbox : (s.setPc w).inbox = s.inbox := rfl
@[simp] theorem setPc_emitted : (s.setPc w).emitted = s.emitted := rfl
@[simp] theorem setPc_randDraws : (s.setPc w).randDraws = s.randDraws := rfl
@[simp] theorem setPc_tickDraws : (s.setPc w).tickDraws = s.tickDraws := rfl

end

/-! ## advance -/

section
variable (s : State)

@[simp] theorem advance_params : s.advance.params = s.params := rfl
@[simp] theorem advance_v : s.advance.v = s.v := rfl
@[simp] theorem advance_i : s.advance.i = s.i := rfl
@[simp] theorem advance_pc : s.advance.pc = trunc16 (s.pc.toNat + 2) := rfl
@[simp] theorem advance_sp : s.advance.sp = s.sp := rfl
@[simp] theorem advance_stack : s.advance.stack = s.stack := rfl
@[simp] theorem advance_dt : s.advance.dt = s.dt := rfl
@[simp] theorem advance_st : s.advance.st = s.st := rfl
@[simp] theorem advance_keys : s.advance.keys = s.keys := rfl
@[simp] theorem advance_fb : s.advance.fb = s.fb := rfl
@[simp] theorem advance_dirty : s.advance.dirty = s.dirty := rfl
@[simp] theorem advance_status : s.advance.status = s.status := rfl
@[simp] theorem advance_mem : s.advance.mem = s.mem := rfl
@[simp] theorem advance_inbox : s.advance.inbox = s.inbox := rfl
@[simp] theorem advance_emitted : s.advance.emitted = s.emitted := rfl
@[simp] theorem advance_randDraws : s.advance.randDraws = s.randDraws := rfl
@[simp] theorem advance_tickDraws : s.advance.tickDraws = s.tickDraws := rfl

end

/-! ## skip -/

section
variable (s : State) (c : Bool)

@[simp] theorem skip_params : (s.skip c).params = s.params := rfl
@[simp] theorem skip_v : (s.skip c).v = s.v := rfl
@[simp] theorem skip_i : (s.skip c).i = s.i := rfl
@[simp] theorem skip_pc : (s.skip c).pc = trunc16 (s.pc.toNat + (if c then 4 else 2)) := rfl
@[simp] theorem skip_sp : (s.skip c).sp = s.sp := rfl
@[simp] theorem skip_stack : (s.skip c).stack = s.stack := rfl
@[simp] theorem skip_dt : (s.skip c).dt = s.dt := rfl
@[simp] theorem skip_st : (s.skip c).st = s.st := rfl
@[simp] theorem skip_keys : (s.skip c).keys = s.keys := rfl
@[simp] theorem skip_fb : (s.skip c).fb = s.fb := rfl
@[simp] theorem skip_dirty : (s.skip c).dirty = s.dirty := rfl
@[simp] theorem skip_status : (s.skip c).status = s.status := rfl
@[simp] theorem skip_mem : (s.skip c).mem = s.mem := rfl
@[simp] theorem skip_inbox : (s.skip c).inbox = s.inbox := rfl
@[simp] theorem skip_emitted : (s.skip c).emitted = s.emitted := rfl
@[simp] theorem skip_randDraws : (s.skip c).randDraws = s.randDraws := rfl
@[simp] theorem skip_tickDraws : (s.skip c).tickDraws = s.tickDraws := rfl

end

/-! ## setStack -/

section
variable (s : State) (k : Vector Word Config.stackCapacity) (p : Fin (Config.stackCapacity + 1))

@[simp] theorem setStack_params : (s.setStack k p).params = s.params := rfl
@[simp] theorem setStack_v : (s.setStack k p).v = s.v := rfl
@[simp] theorem setStack_i : (s.setStack k p).i = s.i := rfl
@[simp] theorem setStack_pc : (s.setStack k p).pc = s.pc := rfl
@[simp] theorem setStack_sp : (s.setStack k p).sp = p := rfl
@[simp] theorem setStack_stack : (s.setStack k p).stack = k := rfl
@[simp] theorem setStack_dt : (s.setStack k p).dt = s.dt := rfl
@[simp] theorem setStack_st : (s.setStack k p).st = s.st := rfl
@[simp] theorem setStack_keys : (s.setStack k p).keys = s.keys := rfl
@[simp] theorem setStack_fb : (s.setStack k p).fb = s.fb := rfl
@[simp] theorem setStack_dirty : (s.setStack k p).dirty = s.dirty := rfl
@[simp] theorem setStack_status : (s.setStack k p).status = s.status := rfl
@[simp] theorem setStack_mem : (s.setStack k p).mem = s.mem := rfl
@[simp] theorem setStack_inbox : (s.setStack k p).inbox = s.inbox := rfl
@[simp] theorem setStack_emitted : (s.setStack k p).emitted = s.emitted := rfl
@[simp] theorem setStack_randDraws : (s.setStack k p).randDraws = s.randDraws := rfl
@[simp] theorem setStack_tickDraws : (s.setStack k p).tickDraws = s.tickDraws := rfl

end

/-! ## setDt -/

section
variable (s : State) (b : Byte)

@[simp] theorem setDt_params : (s.setDt b).params = s.params := rfl
@[simp] theorem setDt_v : (s.setDt b).v = s.v := rfl
@[simp] theorem setDt_i : (s.setDt b).i = s.i := rfl
@[simp] theorem setDt_pc : (s.setDt b).pc = s.pc := rfl
@[simp] theorem setDt_sp : (s.setDt b).sp = s.sp := rfl
@[simp] theorem setDt_stack : (s.setDt b).stack = s.stack := rfl
@[simp] theorem setDt_dt : (s.setDt b).dt = b := rfl
@[simp] theorem setDt_st : (s.setDt b).st = s.st := rfl
@[simp] theorem setDt_keys : (s.setDt b).keys = s.keys := rfl
@[simp] theorem setDt_fb : (s.setDt b).fb = s.fb := rfl
@[simp] theorem setDt_dirty : (s.setDt b).dirty = s.dirty := rfl
@[simp] theorem setDt_status : (s.setDt b).status = s.status := rfl
@[simp] theorem setDt_mem : (s.setDt b).mem = s.mem := rfl
@[simp] theorem setDt_inbox : (s.setDt b).inbox = s.inbox := rfl
@[simp] theorem setDt_emitted : (s.setDt b).emitted = s.emitted := rfl
@[simp] theorem setDt_randDraws : (s.setDt b).randDraws = s.randDraws := rfl
@[simp] theorem setDt_tickDraws : (s.setDt b).tickDraws = s.tickDraws := rfl

end

/-! ## setSt -/

section
variable (s : State) (b : Byte)

@[simp] theorem setSt_params : (s.setSt b).params = s.params := rfl
@[simp] theorem setSt_v : (s.setSt b).v = s.v := rfl
@[simp] theorem setSt_i : (s.setSt b).i = s.i := rfl
@[simp] theorem setSt_pc : (s.setSt b).pc = s.pc := rfl
@[simp] theorem setSt_sp : (s.setSt b).sp = s.sp := rfl
@[simp] theorem setSt_stack : (s.setSt b).stack = s.stack := rfl
@[simp] theorem setSt_dt : (s.setSt b).dt = s.dt := rfl
@[simp] theorem setSt_st : (s.setSt b).st = b := rfl
@[simp] theorem setSt_keys : (s.setSt b).keys = s.keys := rfl
@[simp] theorem setSt_fb : (s.setSt b).fb = s.fb := rfl
@[simp] theorem setSt_dirty : (s.setSt b).dirty = s.dirty := rfl
@[simp] theorem setSt_status : (s.setSt b).status = s.status := rfl
@[simp] theorem setSt_mem : (s.setSt b).mem = s.mem := rfl
@[simp] theorem setSt_inbox : (s.setSt b).inbox = s.inbox := rfl
@[simp] theorem setSt_emitted : (s.setSt b).emitted = s.emitted := rfl
@[simp] theorem setSt_randDraws : (s.setSt b).randDraws = s.randDraws := rfl
@[simp] theorem setSt_tickDraws : (s.setSt b).tickDraws = s.tickDraws := rfl

end

/-! ## setKey -/

section
variable (s : State) (k : Fin Config.numKeys) (d : Bool)

@[simp] theorem setKey_params : (s.setKey k d).params = s.params := rfl
@[simp] theorem setKey_v : (s.setKey k d).v = s.v := rfl
@[simp] theorem setKey_i : (s.setKey k d).i = s.i := rfl
@[simp] theorem setKey_pc : (s.setKey k d).pc = s.pc := rfl
@[simp] theorem setKey_sp : (s.setKey k d).sp = s.sp := rfl
@[simp] theorem setKey_stack : (s.setKey k d).stack = s.stack := rfl
@[simp] theorem setKey_dt : (s.setKey k d).dt = s.dt := rfl
@[simp] theorem setKey_st : (s.setKey k d).st = s.st := rfl
@[simp] theorem setKey_keys : (s.setKey k d).keys = s.keys.set k d := rfl
@[simp] theorem setKey_fb : (s.setKey k d).fb = s.fb := rfl
@[simp] theorem setKey_dirty : (s.setKey k d).dirty = s.dirty := rfl
@[simp] theorem setKey_status : (s.setKey k d).status = s.status := rfl
@[simp] theorem setKey_mem : (s.setKey k d).mem = s.mem := rfl
@[simp] theorem setKey_inbox : (s.setKey k d).inbox = s.inbox := rfl
@[simp] theorem setKey_emitted : (s.setKey k d).emitted = s.emitted := rfl
@[simp] theorem setKey_randDraws : (s.setKey k d).randDraws = s.randDraws := rfl
@[simp] theorem setKey_tickDraws : (s.setKey k d).tickDraws = s.tickDraws := rfl

end

/-! ## setFb -/

section
variable (s : State) (f : FrameBuffer)

@[simp] theorem setFb_params : (s.setFb f).params = s.params := rfl
@[simp] theorem setFb_v : (s.setFb f).v = s.v := rfl
@[simp] theorem setFb_i : (s.setFb f).i = s.i := rfl
@[simp] theorem setFb_pc : (s.setFb f).pc = s.pc := rfl
@[simp] theorem setFb_sp : (s.setFb f).sp = s.sp := rfl
@[simp] theorem setFb_stack : (s.setFb f).stack = s.stack := rfl
@[simp] theorem setFb_dt : (s.setFb f).dt = s.dt := rfl
@[simp] theorem setFb_st : (s.setFb f).st = s.st := rfl
@[simp] theorem setFb_keys : (s.setFb f).keys = s.keys := rfl
@[simp] theorem setFb_fb : (s.setFb f).fb = f := rfl
@[simp] theorem setFb_dirty : (s.setFb f).dirty = s.dirty := rfl
@[simp] theorem setFb_status : (s.setFb f).status = s.status := rfl
@[simp] theorem setFb_mem : (s.setFb f).mem = s.mem := rfl
@[simp] theorem setFb_inbox : (s.setFb f).inbox = s.inbox := rfl
@[simp] theorem setFb_emitted : (s.setFb f).emitted = s.emitted := rfl
@[simp] theorem setFb_randDraws : (s.setFb f).randDraws = s.randDraws := rfl
@[simp] theorem setFb_tickDraws : (s.setFb f).tickDraws = s.tickDraws := rfl

end

/-! ## setDirty -/

section
variable (s : State) (d : Bool)

@[simp] theorem setDirty_params : (s.setDirty d).params = s.params := rfl
@[simp] theorem setDirty_v : (s.setDirty d).v = s.v := rfl
@[simp] theorem setDirty_i : (s.setDirty d).i = s.i := rfl
@[simp] theorem setDirty_pc : (s.setDirty d).pc = s.pc := rfl
@[simp] theorem setDirty_sp : (s.setDirty d).sp = s.sp := rfl
@[simp] theorem setDirty_stack : (s.setDirty d).stack = s.stack := rfl
@[simp] theorem setDirty_dt : (s.setDirty d).dt = s.dt := rfl
@[simp] theorem setDirty_st : (s.setDirty d).st = s.st := rfl
@[simp] theorem setDirty_keys : (s.setDirty d).keys = s.keys := rfl
@[simp] theorem setDirty_fb : (s.setDirty d).fb = s.fb := rfl
@[simp] theorem setDirty_dirty : (s.setDirty d).dirty = d := rfl
@[simp] theorem setDirty_status : (s.setDirty d).status = s.status := rfl
@[simp] theorem setDirty_mem : (s.setDirty d).mem = s.mem := rfl
@[simp] theorem setDirty_inbox : (s.setDirty d).inbox = s.inbox := rfl
@[simp] theorem setDirty_emitted : (s.setDirty d).emitted = s.emitted := rfl
@[simp] theorem setDirty_randDraws : (s.setDirty d).randDraws = s.randDraws := rfl
@[simp] theorem setDirty_tickDraws : (s.setDirty d).tickDraws = s.tickDraws := rfl

end

/-! ## setStatus -/

section
variable (s : State) (q : Status)

@[simp] theorem setStatus_params : (s.setStatus q).params = s.params := rfl
@[simp] theorem setStatus_v : (s.setStatus q).v = s.v := rfl
@[simp] theorem setStatus_i : (s.setStatus q).i = s.i := rfl
@[simp] theorem setStatus_pc : (s.setStatus q).pc = s.pc := rfl
@[simp] theorem setStatus_sp : (s.setStatus q).sp = s.sp := rfl
@[simp] theorem setStatus_stack : (s.setStatus q).stack = s.stack := rfl
@[simp] theorem setStatus_dt : (s.setStatus q).dt = s.dt := rfl
@[simp] theorem setStatus_st : (s.setStatus q).st = s.st := rfl
@[simp] theorem setStatus_keys : (s.setStatus q).keys = s.keys := rfl
@[simp] theorem setStatus_fb : (s.setStatus q).fb = s.fb := rfl
@[simp] theorem setStatus_dirty : (s.setStatus q).dirty = s.dirty := rfl
@[simp] theorem setStatus_status : (s.setStatus q).status = q := rfl
@[simp] theorem setStatus_mem : (s.setStatus q).mem = s.mem := rfl
@[simp] theorem setStatus_inbox : (s.setStatus q).inbox = s.inbox := rfl
@[simp] theorem setStatus_emitted : (s.setStatus q).emitted = s.emitted := rfl
@[simp] theorem setStatus_randDraws : (s.setStatus q).randDraws = s.randDraws := rfl
@[simp] theorem setStatus_tickDraws : (s.setStatus q).tickDraws = s.tickDraws := rfl

end

/-! ## setMem -/

section
variable (s : State) (m : Memory)

@[simp] theorem setMem_params : (s.setMem m).params = s.params := rfl
@[simp] theorem setMem_v : (s.setMem m).v = s.v := rfl
@[simp] theorem setMem_i : (s.setMem m).i = s.i := rfl
@[simp] theorem setMem_pc : (s.setMem m).pc = s.pc := rfl
@[simp] theorem setMem_sp : (s.setMem m).sp = s.sp := rfl
@[simp] theorem setMem_stack : (s.setMem m).stack = s.stack := rfl
@[simp] theorem setMem_dt : (s.setMem m).dt = s.dt := rfl
@[simp] theorem setMem_st : (s.setMem m).st = s.st := rfl
@[simp] theorem setMem_keys : (s.setMem m).keys = s.keys := rfl
@[simp] theorem setMem_fb : (s.setMem m).fb = s.fb := rfl
@[simp] theorem setMem_dirty : (s.setMem m).dirty = s.dirty := rfl
@[simp] theorem setMem_status : (s.setMem m).status = s.status := rfl
@[simp] theorem setMem_mem : (s.setMem m).mem = m := rfl
@[simp] theorem setMem_inbox : (s.setMem m).inbox = s.inbox := rfl
@[simp] theorem setMem_emitted : (s.setMem m).emitted = s.emitted := rfl
@[simp] theorem setMem_randDraws : (s.setMem m).randDraws = s.randDraws := rfl
@[simp] theorem setMem_tickDraws : (s.setMem m).tickDraws = s.tickDraws := rfl

end

/-! ## store -/

section
variable (s : State) (a : Nat) (bs : List Byte)

@[simp] theorem store_params : (s.store a bs).params = s.params := rfl
@[simp] theorem store_v : (s.store a bs).v = s.v := rfl
@[simp] theorem store_i : (s.store a bs).i = s.i := rfl
@[simp] theorem store_pc : (s.store a bs).pc = s.pc := rfl
@[simp] theorem store_sp : (s.store a bs).sp = s.sp := rfl
@[simp] theorem store_stack : (s.store a bs).stack = s.stack := rfl
@[simp] theorem store_dt : (s.store a bs).dt = s.dt := rfl
@[simp] theorem store_st : (s.store a bs).st = s.st := rfl
@[simp] theorem store_keys : (s.store a bs).keys = s.keys := rfl
@[simp] theorem store_fb : (s.store a bs).fb = s.fb := rfl
@[simp] theorem store_dirty : (s.store a bs).dirty = s.dirty := rfl
@[simp] theorem store_status : (s.store a bs).status = s.status := rfl
@[simp] theorem store_mem : (s.store a bs).mem = writeBlock s.params.font s.mem a bs := rfl
@[simp] theorem store_inbox : (s.store a bs).inbox = s.inbox := rfl
@[simp] theorem store_emitted : (s.store a bs).emitted = s.emitted := rfl
@[simp] theorem store_randDraws : (s.store a bs).randDraws = s.randDraws := rfl
@[simp] theorem store_tickDraws : (s.store a bs).tickDraws = s.tickDraws := rfl

end

/-! ## setInbox -/

section
variable (s : State) (ms : List HostMove)

@[simp] theorem setInbox_params : (s.setInbox ms).params = s.params := rfl
@[simp] theorem setInbox_v : (s.setInbox ms).v = s.v := rfl
@[simp] theorem setInbox_i : (s.setInbox ms).i = s.i := rfl
@[simp] theorem setInbox_pc : (s.setInbox ms).pc = s.pc := rfl
@[simp] theorem setInbox_sp : (s.setInbox ms).sp = s.sp := rfl
@[simp] theorem setInbox_stack : (s.setInbox ms).stack = s.stack := rfl
@[simp] theorem setInbox_dt : (s.setInbox ms).dt = s.dt := rfl
@[simp] theorem setInbox_st : (s.setInbox ms).st = s.st := rfl
@[simp] theorem setInbox_keys : (s.setInbox ms).keys = s.keys := rfl
@[simp] theorem setInbox_fb : (s.setInbox ms).fb = s.fb := rfl
@[simp] theorem setInbox_dirty : (s.setInbox ms).dirty = s.dirty := rfl
@[simp] theorem setInbox_status : (s.setInbox ms).status = s.status := rfl
@[simp] theorem setInbox_mem : (s.setInbox ms).mem = s.mem := rfl
@[simp] theorem setInbox_inbox : (s.setInbox ms).inbox = ms := rfl
@[simp] theorem setInbox_emitted : (s.setInbox ms).emitted = s.emitted := rfl
@[simp] theorem setInbox_randDraws : (s.setInbox ms).randDraws = s.randDraws := rfl
@[simp] theorem setInbox_tickDraws : (s.setInbox ms).tickDraws = s.tickDraws := rfl

end

/-! ## emit -/

section
variable (s : State) (e : PortEvent)

@[simp] theorem emit_params : (s.emit e).params = s.params := rfl
@[simp] theorem emit_v : (s.emit e).v = s.v := rfl
@[simp] theorem emit_i : (s.emit e).i = s.i := rfl
@[simp] theorem emit_pc : (s.emit e).pc = s.pc := rfl
@[simp] theorem emit_sp : (s.emit e).sp = s.sp := rfl
@[simp] theorem emit_stack : (s.emit e).stack = s.stack := rfl
@[simp] theorem emit_dt : (s.emit e).dt = s.dt := rfl
@[simp] theorem emit_st : (s.emit e).st = s.st := rfl
@[simp] theorem emit_keys : (s.emit e).keys = s.keys := rfl
@[simp] theorem emit_fb : (s.emit e).fb = s.fb := rfl
@[simp] theorem emit_dirty : (s.emit e).dirty = s.dirty := rfl
@[simp] theorem emit_status : (s.emit e).status = s.status := rfl
@[simp] theorem emit_mem : (s.emit e).mem = s.mem := rfl
@[simp] theorem emit_inbox : (s.emit e).inbox = s.inbox := rfl
@[simp] theorem emit_emitted : (s.emit e).emitted = s.emitted ++ [e] := rfl
@[simp] theorem emit_randDraws : (s.emit e).randDraws = s.randDraws := rfl
@[simp] theorem emit_tickDraws : (s.emit e).tickDraws = s.tickDraws := rfl

end

/-! ## countRandDraw -/

section
variable (s : State)

@[simp] theorem countRandDraw_params : s.countRandDraw.params = s.params := rfl
@[simp] theorem countRandDraw_v : s.countRandDraw.v = s.v := rfl
@[simp] theorem countRandDraw_i : s.countRandDraw.i = s.i := rfl
@[simp] theorem countRandDraw_pc : s.countRandDraw.pc = s.pc := rfl
@[simp] theorem countRandDraw_sp : s.countRandDraw.sp = s.sp := rfl
@[simp] theorem countRandDraw_stack : s.countRandDraw.stack = s.stack := rfl
@[simp] theorem countRandDraw_dt : s.countRandDraw.dt = s.dt := rfl
@[simp] theorem countRandDraw_st : s.countRandDraw.st = s.st := rfl
@[simp] theorem countRandDraw_keys : s.countRandDraw.keys = s.keys := rfl
@[simp] theorem countRandDraw_fb : s.countRandDraw.fb = s.fb := rfl
@[simp] theorem countRandDraw_dirty : s.countRandDraw.dirty = s.dirty := rfl
@[simp] theorem countRandDraw_status : s.countRandDraw.status = s.status := rfl
@[simp] theorem countRandDraw_mem : s.countRandDraw.mem = s.mem := rfl
@[simp] theorem countRandDraw_inbox : s.countRandDraw.inbox = s.inbox := rfl
@[simp] theorem countRandDraw_emitted : s.countRandDraw.emitted = s.emitted := rfl
@[simp] theorem countRandDraw_randDraws : s.countRandDraw.randDraws = s.randDraws + 1 := rfl
@[simp] theorem countRandDraw_tickDraws : s.countRandDraw.tickDraws = s.tickDraws := rfl

end

/-! ## countTickDraw -/

section
variable (s : State)

@[simp] theorem countTickDraw_params : s.countTickDraw.params = s.params := rfl
@[simp] theorem countTickDraw_v : s.countTickDraw.v = s.v := rfl
@[simp] theorem countTickDraw_i : s.countTickDraw.i = s.i := rfl
@[simp] theorem countTickDraw_pc : s.countTickDraw.pc = s.pc := rfl
@[simp] theorem countTickDraw_sp : s.countTickDraw.sp = s.sp := rfl
@[simp] theorem countTickDraw_stack : s.countTickDraw.stack = s.stack := rfl
@[simp] theorem countTickDraw_dt : s.countTickDraw.dt = s.dt := rfl
@[simp] theorem countTickDraw_st : s.countTickDraw.st = s.st := rfl
@[simp] theorem countTickDraw_keys : s.countTickDraw.keys = s.keys := rfl
@[simp] theorem countTickDraw_fb : s.countTickDraw.fb = s.fb := rfl
@[simp] theorem countTickDraw_dirty : s.countTickDraw.dirty = s.dirty := rfl
@[simp] theorem countTickDraw_status : s.countTickDraw.status = s.status := rfl
@[simp] theorem countTickDraw_mem : s.countTickDraw.mem = s.mem := rfl
@[simp] theorem countTickDraw_inbox : s.countTickDraw.inbox = s.inbox := rfl
@[simp] theorem countTickDraw_emitted : s.countTickDraw.emitted = s.emitted := rfl
@[simp] theorem countTickDraw_randDraws : s.countTickDraw.randDraws = s.randDraws := rfl
@[simp] theorem countTickDraw_tickDraws : s.countTickDraw.tickDraws = s.tickDraws + 1 := rfl

end

/-! ## setResultAndFlag -/

section
variable (s : State) (x : RegIdx) (a b : Byte)

@[simp] theorem setResultAndFlag_params : (s.setResultAndFlag x a b).params = s.params := rfl
@[simp] theorem setResultAndFlag_v : (s.setResultAndFlag x a b).v = (s.v.set x a).set vf b := rfl
@[simp] theorem setResultAndFlag_i : (s.setResultAndFlag x a b).i = s.i := rfl
@[simp] theorem setResultAndFlag_pc : (s.setResultAndFlag x a b).pc = s.pc := rfl
@[simp] theorem setResultAndFlag_sp : (s.setResultAndFlag x a b).sp = s.sp := rfl
@[simp] theorem setResultAndFlag_stack : (s.setResultAndFlag x a b).stack = s.stack := rfl
@[simp] theorem setResultAndFlag_dt : (s.setResultAndFlag x a b).dt = s.dt := rfl
@[simp] theorem setResultAndFlag_st : (s.setResultAndFlag x a b).st = s.st := rfl
@[simp] theorem setResultAndFlag_keys : (s.setResultAndFlag x a b).keys = s.keys := rfl
@[simp] theorem setResultAndFlag_fb : (s.setResultAndFlag x a b).fb = s.fb := rfl
@[simp] theorem setResultAndFlag_dirty : (s.setResultAndFlag x a b).dirty = s.dirty := rfl
@[simp] theorem setResultAndFlag_status : (s.setResultAndFlag x a b).status = s.status := rfl
@[simp] theorem setResultAndFlag_mem : (s.setResultAndFlag x a b).mem = s.mem := rfl
@[simp] theorem setResultAndFlag_inbox : (s.setResultAndFlag x a b).inbox = s.inbox := rfl
@[simp] theorem setResultAndFlag_emitted : (s.setResultAndFlag x a b).emitted = s.emitted := rfl
@[simp] theorem setResultAndFlag_randDraws : (s.setResultAndFlag x a b).randDraws = s.randDraws := rfl
@[simp] theorem setResultAndFlag_tickDraws : (s.setResultAndFlag x a b).tickDraws = s.tickDraws := rfl

end

/-! ## putDrawing -/

section
variable (s : State) (d : DrawState)

@[simp] theorem putDrawing_params : (s.putDrawing d).params = s.params := rfl
@[simp] theorem putDrawing_v : (s.putDrawing d).v = s.v.set vf (flagByte d.collided) := rfl
@[simp] theorem putDrawing_i : (s.putDrawing d).i = s.i := rfl
@[simp] theorem putDrawing_pc : (s.putDrawing d).pc = s.pc := rfl
@[simp] theorem putDrawing_sp : (s.putDrawing d).sp = s.sp := rfl
@[simp] theorem putDrawing_stack : (s.putDrawing d).stack = s.stack := rfl
@[simp] theorem putDrawing_dt : (s.putDrawing d).dt = s.dt := rfl
@[simp] theorem putDrawing_st : (s.putDrawing d).st = s.st := rfl
@[simp] theorem putDrawing_keys : (s.putDrawing d).keys = s.keys := rfl
@[simp] theorem putDrawing_fb : (s.putDrawing d).fb = d.fb := rfl
@[simp] theorem putDrawing_dirty : (s.putDrawing d).dirty = (s.dirty || d.changed) := rfl
@[simp] theorem putDrawing_status : (s.putDrawing d).status = s.status := rfl
@[simp] theorem putDrawing_mem : (s.putDrawing d).mem = s.mem := rfl
@[simp] theorem putDrawing_inbox : (s.putDrawing d).inbox = s.inbox := rfl
@[simp] theorem putDrawing_emitted : (s.putDrawing d).emitted = s.emitted := rfl
@[simp] theorem putDrawing_randDraws : (s.putDrawing d).randDraws = s.randDraws := rfl
@[simp] theorem putDrawing_tickDraws : (s.putDrawing d).tickDraws = s.tickDraws := rfl

end

/-! ## Registers, one at a time -/

/-- Reading a register after a write. -/
@[simp] theorem getV_setV (s : State) (x k : RegIdx) (b : Byte) :
    (s.setV x b).getV k = if k = x then b else s.getV k := by
  simp only [State.getV, setV_v, Fin.getElem_fin, Vector.getElem_set, Fin.val_inj, eq_comm]

/-- Reading a register after a result and a flag: VF holds the flag, also when it was the destination. -/
@[simp] theorem getV_setResultAndFlag (s : State) (x k : RegIdx) (a b : Byte) :
    (s.setResultAndFlag x a b).getV k = if k = vf then b else if k = x then a else s.getV k := by
  simp [State.setResultAndFlag]

/-- An update that leaves `V` alone leaves every register alone. -/
theorem getV_congr {s t : State} (h : t.v = s.v) (k : RegIdx) : t.getV k = s.getV k := by
  simp [State.getV, h]

@[simp] theorem getV_setI (s : State) (w : Word) (k : RegIdx) : (s.setI w).getV k = s.getV k := rfl
@[simp] theorem getV_setPc (s : State) (w : Word) (k : RegIdx) : (s.setPc w).getV k = s.getV k := rfl
@[simp] theorem getV_advance (s : State) (k : RegIdx) : s.advance.getV k = s.getV k := rfl
@[simp] theorem getV_skip (s : State) (c : Bool) (k : RegIdx) : (s.skip c).getV k = s.getV k := rfl
@[simp] theorem getV_setStack (s : State) (e : Vector Word Config.stackCapacity) (p : Fin (Config.stackCapacity + 1))
    (k : RegIdx) : (s.setStack e p).getV k = s.getV k := rfl
@[simp] theorem getV_setDt (s : State) (b : Byte) (k : RegIdx) : (s.setDt b).getV k = s.getV k := rfl
@[simp] theorem getV_setSt (s : State) (b : Byte) (k : RegIdx) : (s.setSt b).getV k = s.getV k := rfl
@[simp] theorem getV_setKey (s : State) (j : Fin Config.numKeys) (d : Bool) (k : RegIdx) : (s.setKey j d).getV k = s.getV k := rfl
@[simp] theorem getV_setFb (s : State) (f : FrameBuffer) (k : RegIdx) : (s.setFb f).getV k = s.getV k := rfl
@[simp] theorem getV_setDirty (s : State) (d : Bool) (k : RegIdx) : (s.setDirty d).getV k = s.getV k := rfl
@[simp] theorem getV_setStatus (s : State) (q : Status) (k : RegIdx) : (s.setStatus q).getV k = s.getV k := rfl
@[simp] theorem getV_setMem (s : State) (m : Memory) (k : RegIdx) : (s.setMem m).getV k = s.getV k := rfl
@[simp] theorem getV_store (s : State) (a : Nat) (bs : List Byte) (k : RegIdx) : (s.store a bs).getV k = s.getV k := rfl
@[simp] theorem getV_setInbox (s : State) (ms : List HostMove) (k : RegIdx) : (s.setInbox ms).getV k = s.getV k := rfl
@[simp] theorem getV_emit (s : State) (e : PortEvent) (k : RegIdx) : (s.emit e).getV k = s.getV k := rfl
@[simp] theorem getV_countRandDraw (s : State) (k : RegIdx) : s.countRandDraw.getV k = s.getV k := rfl
@[simp] theorem getV_countTickDraw (s : State) (k : RegIdx) : s.countTickDraw.getV k = s.getV k := rfl

/-- Reading a register after a drawing: only VF is written. -/
@[simp] theorem getV_putDrawing (s : State) (d : DrawState) (k : RegIdx) :
    (s.putDrawing d).getV k = if k = vf then flagByte d.collided else s.getV k := by
  simp [State.putDrawing]

/-- Reading a register after all of them are replaced. -/
@[simp] theorem getV_setRegs (s : State) (r : Vector Byte 16) (k : RegIdx) : (s.setRegs r).getV k = r[k] := rfl

/-! ## Memory, one byte at a time -/

/-- An update that leaves the parameters and memory alone leaves every byte alone. -/
theorem read_congr {s t : State} (hp : t.params = s.params) (hm : t.mem = s.mem) (a : Nat) : t.read a = s.read a := by
  simp only [State.read, hp, hm]

@[simp] theorem read_setI (s : State) (w : Word) (a : Nat) : (s.setI w).read a = s.read a := rfl
@[simp] theorem read_setPc (s : State) (w : Word) (a : Nat) : (s.setPc w).read a = s.read a := rfl
@[simp] theorem read_advance (s : State) (a : Nat) : s.advance.read a = s.read a := rfl
@[simp] theorem read_skip (s : State) (c : Bool) (a : Nat) : (s.skip c).read a = s.read a := rfl
@[simp] theorem read_setDt (s : State) (b : Byte) (a : Nat) : (s.setDt b).read a = s.read a := rfl
@[simp] theorem read_setSt (s : State) (b : Byte) (a : Nat) : (s.setSt b).read a = s.read a := rfl
@[simp] theorem read_setKey (s : State) (j : Fin Config.numKeys) (d : Bool) (a : Nat) :
    (s.setKey j d).read a = s.read a := rfl
@[simp] theorem read_setFb (s : State) (f : FrameBuffer) (a : Nat) : (s.setFb f).read a = s.read a := rfl
@[simp] theorem read_setDirty (s : State) (d : Bool) (a : Nat) : (s.setDirty d).read a = s.read a := rfl
@[simp] theorem read_setStatus (s : State) (q : Status) (a : Nat) : (s.setStatus q).read a = s.read a := rfl
@[simp] theorem read_setInbox (s : State) (ms : List HostMove) (a : Nat) : (s.setInbox ms).read a = s.read a := rfl
@[simp] theorem read_emit (s : State) (e : PortEvent) (a : Nat) : (s.emit e).read a = s.read a := rfl
@[simp] theorem read_countRandDraw (s : State) (a : Nat) : s.countRandDraw.read a = s.read a := rfl
@[simp] theorem read_countTickDraw (s : State) (a : Nat) : s.countTickDraw.read a = s.read a := rfl
@[simp] theorem read_setStack (s : State) (e : Vector Word Config.stackCapacity) (p : Fin (Config.stackCapacity + 1)) (a : Nat) :
    (s.setStack e p).read a = s.read a := rfl
@[simp] theorem read_setV (s : State) (x : RegIdx) (b : Byte) (a : Nat) : (s.setV x b).read a = s.read a := rfl
@[simp] theorem read_setRegs (s : State) (r : Vector Byte 16) (a : Nat) : (s.setRegs r).read a = s.read a := rfl
@[simp] theorem read_setResultAndFlag (s : State) (x : RegIdx) (b c : Byte) (a : Nat) :
    (s.setResultAndFlag x b c).read a = s.read a := rfl
@[simp] theorem read_putDrawing (s : State) (d : DrawState) (a : Nat) : (s.putDrawing d).read a = s.read a := rfl

end Sys2Proof.Machine
end

