-- ==== Sys2Proof/Laws/Ops.lean ====
section
/-!
SUPPORT. One lemma for each shared operation that says once everything it can do: faults, the call stack, the pixels,
register blocks, the key scan, the fetch, the flags' arithmetic.
-/

namespace Sys2Proof.Machine

/-! ## Narrowing -/

@[simp] theorem toNat_trunc8 (n : Nat) : (trunc8 n).toNat = n % 256 := by simp [trunc8]

@[simp] theorem toNat_trunc16 (n : Nat) : (trunc16 n).toNat = n % 65536 := by simp [trunc16]

@[simp] theorem toNat_flagByte (b : Bool) : (flagByte b).toNat = if b then 1 else 0 := by cases b <;> rfl

/-! ## Memory -/

/-- Reading after a block was stored to a canonical memory: its bytes at its addresses, everything else as before. -/
theorem read_store {s : State} {a : Nat} {bs : List Byte} (h : Memory.wf s.params.font s.mem = true)
    (ha : a + bs.length ≤ Config.memSize) (c : Nat) :
    (s.store a bs).read c = if a ≤ c then (bs[c - a]?).getD (s.read c) else s.read c :=
  memRead_writeBlock h ha c

/-- What is read after a store depends on the parameters and memory it was made over alone. -/
theorem read_store_congr {s t : State} (hp : t.params = s.params) (hm : t.mem = s.mem) (a : Nat) (bs : List Byte)
    (c : Nat) : (t.store a bs).read c = (s.store a bs).read c := by
  simp only [State.read, State.store, setMem_params, setMem_mem, hp, hm]

/-- A block stored inside the address space keeps the canonical form. -/
theorem wf_store {s : State} {a : Nat} {bs : List Byte} (ha : a + bs.length ≤ Config.memSize)
    (h : Memory.wf s.params.font s.mem = true) : Memory.wf (s.store a bs).params.font (s.store a bs).mem = true :=
  wf_writeBlock ha h

@[simp] theorem length_readBytes (s : State) (a len : Nat) : (s.readBytes a len).length = len :=
  length_readBlock _ _ _ _

/-- The k-th byte of a block read. -/
theorem getElem?_readBytes (s : State) (a len k : Nat) :
    (s.readBytes a len)[k]? = if k < len then some (s.read (a + k)) else none :=
  getElem?_readBlock _ _ _ _ _

/-! ## Taking a fault -/

/-- Everything taking a fault does (60_exceptions.md R205). -/
theorem raise_eq (c : FaultCause) (s : State) :
    raise c s = .next (s.setStatus (.halted { cause := c, pc := s.pc, word := s.fetchedWord })) := rfl

/-- Everything a checked operation can lead to: its value is used, or its fault is taken in the state before it. -/
theorem orRaise_cases {α : Type} {r : Except FaultCause α} {s t : State} {go : α → Result}
    (h : orRaise r s go = .next t) :
    (∃ a, r = .ok a ∧ go a = .next t) ∨
      (∃ c, r = .error c ∧
        t = s.setStatus (.halted { cause := c, pc := s.pc, word := s.fetchedWord })) := by
  cases r with
  | ok a => exact .inl ⟨a, rfl, h⟩
  | error c =>
    rw [orRaise, raise_eq] at h
    exact .inr ⟨c, rfl, (Host.Outcome.next.inj h).symm⟩

@[simp] theorem orRaise_ok {α : Type} (a : α) (s : State) (go : α → Result) : orRaise (.ok a) s go = go a := rfl

@[simp] theorem orRaise_error {α : Type} (c : FaultCause) (s : State) (go : α → Result) :
    orRaise (.error c) s go = raise c s := rfl

/-! ## Fetch -/

/-- A fetch inside the address space reads the two bytes at `PC` and `PC + 1`, high byte first. -/
theorem fetch_ok {s : State} (h : s.pc.toNat + 1 < 0x1000) :
    s.fetch = .ok (wordOfBytes (s.read s.pc.toNat) (s.read (s.pc.toNat + 1))) := by
  have hc : checkBlock s.pc.toNat 2 = .ok () := checkBlock_ok (Or.inr (by simp only [Config.memSize]; omega))
  simp only [State.fetch, hc]

/-- A fetch that reaches 0x1000 faults with its first address there. -/
theorem fetch_error {s : State} (h : 0x1000 ≤ s.pc.toNat + 1) :
    s.fetch = .error (.addressOutOfRange (max s.pc.toNat 0x1000)) := by
  have hc : checkBlock s.pc.toNat 2 = .error (.addressOutOfRange (max s.pc.toNat Config.memSize)) :=
    checkBlock_error (by simp only [Config.memSize]; omega)
  simp only [State.fetch, hc]

/-- A fetched word lies inside the address space. -/
theorem pc_of_fetch {s : State} {w : Word} (h : s.fetch = .ok w) : s.pc.toNat + 1 < 0x1000 := by
  by_contra hc
  rw [fetch_error (by omega)] at h
  cases h

/-- The fetch depends on `PC` and on memory's bytes alone. -/
theorem fetch_congr {s t : State} (hp : t.pc = s.pc) (hm : ∀ a, t.read a = s.read a) :
    t.fetch = s.fetch := by
  simp only [State.fetch, hp, hm]

/-- The recorded word after a successful fetch. -/
theorem fetchedWord_ok {s : State} {w : Word} (h : s.fetch = .ok w) : s.fetchedWord = some w := by
  simp only [State.fetchedWord, h]

/-- No word is recorded where the fetch faults. -/
theorem fetchedWord_error {s : State} {c : FaultCause} (h : s.fetch = .error c) : s.fetchedWord = none := by
  simp only [State.fetchedWord, h]

/-! ## The call stack -/

/-- A push on a stack that is not full. -/
theorem push_ok {s : State} (w : Word) (h : s.sp.val < s.params.stackDepth.val) :
    s.push w =
      .ok (s.setStack (s.stack.set s.sp.val w (lt_capacity_of_lt_depth h))
        ⟨s.sp.val + 1, Nat.succ_lt_succ (lt_capacity_of_lt_depth h)⟩) := by
  simp only [State.push, dif_pos h]

/-- A push on a full stack. -/
theorem push_full {s : State} (w : Word) (h : ¬s.sp.val < s.params.stackDepth.val) :
    s.push w = .error (.stackOverflow s.sp.val) := by
  simp only [State.push, dif_neg h]

/-- Everything a push can answer. -/
theorem push_cases {s : State} {w : Word} {r : Except FaultCause State} (h : s.push w = r) :
    (∃ hl : s.sp.val < s.params.stackDepth.val,
      r = .ok (s.setStack (s.stack.set s.sp.val w (lt_capacity_of_lt_depth hl))
        ⟨s.sp.val + 1, Nat.succ_lt_succ (lt_capacity_of_lt_depth hl)⟩)) ∨
      (s.params.stackDepth.val ≤ s.sp.val ∧ r = .error (.stackOverflow s.sp.val)) := by
  by_cases hl : s.sp.val < s.params.stackDepth.val
  · exact .inl ⟨hl, h ▸ push_ok w hl⟩
  · exact .inr ⟨Nat.le_of_not_lt hl, h ▸ push_full w hl⟩

/-- Everything a pop can answer: the entry below `SP` and `SP` one less, or the fault of an empty stack. -/
theorem pop_cases {s : State} {r : Except FaultCause (Word × State)} (h : s.pop = r) :
    (∃ (k : Fin Config.stackCapacity) (q : Fin (Config.stackCapacity + 1)),
      s.sp.val = k.val + 1 ∧ q.val = k.val ∧ r = .ok (s.stack[k], s.setStack s.stack q)) ∨
      (s.sp.val = 0 ∧ r = .error (.stackUnderflow s.sp.val)) := by
  by_cases hl : 0 < s.sp.val
  · have hb := s.sp.isLt
    refine .inl ⟨⟨s.sp.val - 1, by omega⟩, ⟨s.sp.val - 1, by omega⟩, ?_, rfl, ?_⟩
    · simp only; omega
    · rw [← h]; simp only [State.pop, dif_pos hl]; rfl
  · refine .inr ⟨by omega, ?_⟩
    rw [← h]; simp only [State.pop, dif_neg hl]

/-! ## Pixels -/

/-- Reading a pixel after one was set. -/
theorem pixel_setPixel (fb : FrameBuffer) (r c r' c' : Nat) (p : Bool) :
    pixel (setPixel fb r c p) r' c' = if r' % 32 = r % 32 ∧ c' % 64 = c % 64 then p else pixel fb r' c' := by
  simp only [pixel, setPixel, Vector.getElem_set, Config.fbRows, Config.fbCols]
  by_cases hr : r' % 32 = r % 32
  · by_cases hc : c' % 64 = c % 64
    · simp [hr, hc]
    · have hc' : c % 64 ≠ c' % 64 := fun h => hc h.symm
      simp [hr, hc, hc']
  · have hr' : r % 32 ≠ r' % 32 := fun h => hr h.symm
    simp [hr, hr']

/-- Every pixel of the cleared buffer is false. -/
@[simp] theorem pixel_clearFb (r c : Nat) : pixel clearFb r c = false := by
  simp [pixel, clearFb]

/-- Two frame buffers with the same pixels are the same. -/
theorem fb_ext {f g : FrameBuffer} (h : ∀ r c : Nat, pixel f r c = pixel g r c) : f = g := by
  apply Vector.ext
  intro r hr
  apply Vector.ext
  intro c hc
  have h' := h r c
  simp only [pixel, Config.fbRows, Config.fbCols] at h' hr hc
  simpa only [Nat.mod_eq_of_lt hr, Nat.mod_eq_of_lt hc] using h'

/-! ## Register blocks -/

/-- Reading a register after a block of bytes was put into the registers from number `k` on. -/
theorem getElem_setRegsFrom (v : Vector Byte 16) (bs : List Byte) (k : Nat) (r : RegIdx) :
    (setRegsFrom v k bs)[r] = if k ≤ r.val then (bs[r.val - k]?).getD v[r] else v[r] := by
  induction bs generalizing v k with
  | nil => simp [setRegsFrom]
  | cons b bs ih =>
    simp only [setRegsFrom, ih, Fin.getElem_fin, Vector.getElem_setIfInBounds]
    by_cases h1 : k = r.val
    · subst h1; simp
    · by_cases h2 : k ≤ r.val
      · obtain ⟨d, hd⟩ : ∃ d, r.val = k + 1 + d := ⟨r.val - (k + 1), by omega⟩
        have e1 : r.val - (k + 1) = d := by omega
        have e2 : r.val - k = d + 1 := by omega
        rw [if_pos (by omega), if_neg h1, if_pos h2, e1, e2, List.getElem?_cons_succ]
      · rw [if_neg (by omega), if_neg h1, if_neg h2]

@[simp] theorem length_regsUpTo (s : State) (x : RegIdx) : (s.regsUpTo x).length = x.val + 1 := by
  simp [State.regsUpTo]

/-- The k-th byte of `V[0]` to `V[x]`. -/
theorem getElem?_regsUpTo (s : State) (x k : RegIdx) (h : k ≤ x) : (s.regsUpTo x)[k.val]? = some (s.getV k) := by
  have hk : k.val < x.val + 1 := by have : k.val ≤ x.val := h; omega
  simp only [State.regsUpTo, List.getElem?_take, hk, if_true, State.getV, Fin.getElem_fin]
  simp

/-! ## Keys -/

/-- A value up to 15 names its latch bit. -/
theorem keyAt_ok (s : State) (b : Byte) (k : Fin 16) (h : b.toNat = k.val) : s.keyAt b = .ok s.keys[k] := by
  have hk : b.toNat < Config.numKeys := by have := k.isLt; simp only [Config.numKeys]; omega
  rw [State.keyAt, dif_pos hk]
  simp only [Fin.getElem_fin, h]

/-- A value above 15 is a fault. -/
theorem keyAt_error (s : State) (b : Byte) (h : 15 < b.toNat) : s.keyAt b = .error (.keyIndexOutOfRange b) := by
  have hk : ¬b.toNat < Config.numKeys := by simp only [Config.numKeys]; omega
  simp only [State.keyAt, dif_neg hk]

/-- Everything the latch lookup can answer. -/
theorem keyAt_cases (s : State) (b : Byte) :
    (∃ d, s.keyAt b = .ok d) ∨ s.keyAt b = .error (.keyIndexOutOfRange b) := by
  by_cases h : 15 < b.toNat
  · exact .inr (keyAt_error s b h)
  · exact .inl ⟨_, keyAt_ok s b ⟨b.toNat, by omega⟩ rfl⟩

/-- The scan finds nothing exactly when no key is down. -/
theorem lowestKey_none {s : State} : s.lowestKey = none ↔ ∀ k : Fin 16, s.keys[k] = false := by
  simp [State.lowestKey, List.find?_eq_none]

/-- The scan finds the least key that is down. -/
theorem lowestKey_some {s : State} {k : Fin 16} :
    s.lowestKey = some k ↔ s.keys[k] = true ∧ ∀ j : Fin 16, j < k → s.keys[j] = false := by
  have hs : (List.finRange 16).Pairwise (· < ·) := List.pairwise_lt_finRange 16
  constructor
  · intro h
    rw [State.lowestKey, List.find?_eq_some_iff_append] at h
    obtain ⟨hk, as, bs, happ, has⟩ := h
    refine ⟨hk, fun j hj => ?_⟩
    have hmem : j ∈ List.finRange 16 := List.mem_finRange j
    have happ' : List.finRange 16 = as ++ k :: bs := happ
    rw [happ'] at hmem hs
    rcases List.mem_append.1 hmem with hm | hm
    · simpa using has j hm
    · rcases List.mem_cons.1 hm with rfl | hm
      · exact absurd hj (lt_irrefl _)
      · have := (List.pairwise_append.1 hs).2.1
        exact absurd hj (not_lt_of_gt ((List.pairwise_cons.1 this).1 j hm))
  · rintro ⟨hk, hlow⟩
    cases hl : s.lowestKey with
    | none => rw [lowestKey_none] at hl; rw [hl k] at hk; cases hk
    | some m =>
      rw [State.lowestKey, List.find?_eq_some_iff_append] at hl
      obtain ⟨hm, as, bs, happ, has⟩ := hl
      have happ' : List.finRange 16 = as ++ m :: bs := happ
      have hmem : k ∈ List.finRange 16 := List.mem_finRange k
      rw [happ'] at hmem hs
      rcases List.mem_append.1 hmem with h1 | h1
      · have := has k h1; simp [hk] at this
      · rcases List.mem_cons.1 h1 with rfl | h1
        · rfl
        · have hlt : m < k := (List.pairwise_cons.1 (List.pairwise_append.1 hs).2.1).1 k h1
          have hf := hlow m hlt
          have hm' : s.keys[m] = true := hm
          rw [hf] at hm'; cases hm'

end Sys2Proof.Machine
end

