-- ==== Sys2Proof/Laws/Display.lean ====
section
/-!
SUPPORT. What the sprite engine's loops do to a frame buffer, said once (43_display.md R171): a row, then all rows.
Within one drawing no two bits reach the same pixel, because a sprite is at most 8 wide and 15 tall.
-/

namespace Sys2Proof.Machine

/-- The first `m` columns of one sprite row. -/
def drawCols (ox r : Nat) (row : Byte) (m : Nat) (d : DrawState) : DrawState :=
  (List.range m).foldl (fun d j => drawPixel d (row.getMsbD j) r (ox + j)) d

theorem drawCols_succ (ox r : Nat) (row : Byte) (m : Nat) (d : DrawState) :
    drawCols ox r row (m + 1) d =
      drawPixel (drawCols ox r row m d) (row.getMsbD m) r (ox + m) := by
  simp [drawCols, List.range_succ]

/-- Pixels no column of the row reaches stay. -/
theorem drawCols_other (ox r : Nat) (row : Byte) (m : Nat) (d : DrawState) (r' c' : Nat)
    (h : ∀ j < m, ¬(r' % 32 = r % 32 ∧ c' % 64 = (ox + j) % 64)) :
    pixel (drawCols ox r row m d).fb r' c' = pixel d.fb r' c' := by
  induction m with
  | zero => rfl
  | succ m ih =>
    rw [drawCols_succ, drawPixel, pixel_setPixel, if_neg (h m (by omega)),
      ih (fun j hj => h j (by omega))]

/-- Each column's pixel is XORed with its bit. -/
theorem drawCols_hit (ox r : Nat) (row : Byte) (m : Nat) (hm : m ≤ 64) (d : DrawState) (j : Nat) (hj : j < m) :
    pixel (drawCols ox r row m d).fb r (ox + j) = (pixel d.fb r (ox + j) ^^ row.getMsbD j) := by
  induction m with
  | zero => omega
  | succ m ih =>
    rw [drawCols_succ, drawPixel, pixel_setPixel]
    by_cases h : j = m
    · subst h
      rw [if_pos ⟨rfl, rfl⟩, drawCols_other _ _ _ _ _ _ _ (fun k hk => by omega)]
    · rw [if_neg (by omega), ih (by omega) (by omega)]

theorem drawCols_changed (ox r : Nat) (row : Byte) (m : Nat) (d : DrawState) :
    (drawCols ox r row m d).changed = true ↔ d.changed = true ∨ ∃ j < m, row.getMsbD j = true := by
  induction m with
  | zero => simp [drawCols]
  | succ m ih =>
    rw [drawCols_succ, drawPixel]
    simp only [Bool.or_eq_true, ih, Nat.lt_succ_iff_lt_or_eq, or_and_right, exists_or, exists_eq_left, or_assoc]

theorem drawCols_collided (ox r : Nat) (row : Byte) (m : Nat) (hm : m ≤ 64) (d : DrawState) :
    (drawCols ox r row m d).collided = true ↔
      d.collided = true ∨ ∃ j < m, row.getMsbD j = true ∧ pixel d.fb r (ox + j) = true := by
  induction m with
  | zero => simp [drawCols]
  | succ m ih =>
    rw [drawCols_succ, drawPixel]
    simp only [Bool.or_eq_true, Bool.and_eq_true, ih (by omega),
      drawCols_other ox r row m d r (ox + m) (fun j hj => by omega),
      Nat.lt_succ_iff_lt_or_eq, or_and_right, exists_or, exists_eq_left, or_assoc]

theorem drawRow_eq (ox r : Nat) (row : Byte) (d : DrawState) : drawRow ox r row d = drawCols ox r row 8 d := rfl

/-- Pixels no bit of the sprite reaches stay. -/
theorem drawRows_other (ox : Nat) (rows : List Byte) (r : Nat) (d : DrawState) (r' c' : Nat)
    (h : ∀ i j, i < rows.length → j < 8 → ¬(r' % 32 = (r + i) % 32 ∧ c' % 64 = (ox + j) % 64)) :
    pixel (drawRows ox r rows d).fb r' c' = pixel d.fb r' c' := by
  induction rows generalizing r d with
  | nil => rfl
  | cons row rows ih =>
    rw [drawRows, ih]
    · rw [drawRow_eq]
      exact drawCols_other _ _ _ _ _ _ _ (fun j hj => by simpa using h 0 j (by simp) hj)
    · intro i j hi hj
      have := h (i + 1) j (by simp; omega) hj
      rwa [show r + (i + 1) = r + 1 + i by omega] at this

/-- Each bit is XORed onto its pixel. -/
theorem drawRows_hit (ox : Nat) (rows : List Byte) (hl : rows.length ≤ 32) (r : Nat) (d : DrawState) (i j : Nat)
    (row : Byte) (hi : rows[i]? = some row) (hj : j < 8) :
    pixel (drawRows ox r rows d).fb (r + i) (ox + j) = (pixel d.fb (r + i) (ox + j) ^^ row.getMsbD j) := by
  induction rows generalizing r d i with
  | nil => simp at hi
  | cons b rows ih =>
    simp only [List.length_cons] at hl
    cases i with
    | zero =>
      simp only [List.getElem?_cons_zero, Option.some.injEq] at hi
      subst hi
      rw [drawRows, drawRows_other]
      · rw [drawRow_eq]; exact drawCols_hit _ _ _ _ (by omega) _ _ hj
      · intro k l hk hl'; omega
    | succ i =>
      rw [List.getElem?_cons_succ] at hi
      have hlen : i < rows.length := by
        by_contra hc
        rw [List.getElem?_eq_none (by omega)] at hi
        cases hi
      have := ih (by omega) (r + 1) (drawRow ox r b d) i hi
      rw [show r + 1 + i = r + (i + 1) by omega] at this
      rw [drawRows, this, drawRow_eq, drawCols_other _ _ _ _ _ _ _ (fun k hk => by omega)]

/-- The drawing changed something exactly when some sprite bit is 1. -/
theorem drawRows_changed (ox : Nat) (rows : List Byte) (r : Nat) (d : DrawState) :
    (drawRows ox r rows d).changed = true ↔
      d.changed = true ∨ ∃ (i j : Nat) (row : Byte), rows[i]? = some row ∧ j < 8 ∧ row.getMsbD j = true := by
  induction rows generalizing r d with
  | nil => simp [drawRows]
  | cons b rows ih =>
    rw [drawRows, ih, drawRow_eq, drawCols_changed, or_assoc]
    refine or_congr_right ⟨?_, ?_⟩
    · rintro (⟨j, hj, hb⟩ | ⟨i, j, row, hi, hj, hb⟩)
      · exact ⟨0, j, b, rfl, hj, hb⟩
      · exact ⟨i + 1, j, row, by rwa [List.getElem?_cons_succ], hj, hb⟩
    · rintro ⟨i, j, row, hi, hj, hb⟩
      cases i with
      | zero =>
        simp only [List.getElem?_cons_zero, Option.some.injEq] at hi
        subst hi; exact .inl ⟨j, hj, hb⟩
      | succ i => exact .inr ⟨i, j, row, by rwa [List.getElem?_cons_succ] at hi, hj, hb⟩

/-- The drawing collided exactly when some 1 bit met a set pixel. -/
theorem drawRows_collided (ox : Nat) (rows : List Byte) (hl : rows.length ≤ 32) (r : Nat) (d : DrawState) :
    (drawRows ox r rows d).collided = true ↔
      d.collided = true ∨ ∃ (i j : Nat) (row : Byte), rows[i]? = some row ∧ j < 8 ∧ row.getMsbD j = true ∧
        pixel d.fb (r + i) (ox + j) = true := by
  induction rows generalizing r d with
  | nil => simp [drawRows]
  | cons b rows ih =>
    simp only [List.length_cons] at hl
    rw [drawRows, ih (by omega), drawRow_eq, drawCols_collided _ _ _ _ (by omega), or_assoc]
    have hrow : ∀ i j, i < rows.length →
        pixel (drawCols ox r b 8 d).fb (r + 1 + i) (ox + j) = pixel d.fb (r + 1 + i) (ox + j) :=
      fun i j hi => drawCols_other _ _ _ _ _ _ _ (fun k hk => by omega)
    have hlen : ∀ {i : Nat} {row : Byte}, rows[i]? = some row → i < rows.length := by
      intro i row hi
      by_contra hc
      rw [List.getElem?_eq_none (by omega)] at hi
      cases hi
    refine or_congr_right ⟨?_, ?_⟩
    · rintro (⟨j, hj, hb, hp⟩ | ⟨i, j, row, hi, hj, hb, hp⟩)
      · exact ⟨0, j, b, rfl, hj, hb, hp⟩
      · rw [hrow i j (hlen hi)] at hp
        exact ⟨i + 1, j, row, by rwa [List.getElem?_cons_succ], hj, hb,
          by rwa [show r + (i + 1) = r + 1 + i by omega]⟩
    · rintro ⟨i, j, row, hi, hj, hb, hp⟩
      cases i with
      | zero =>
        simp only [List.getElem?_cons_zero, Option.some.injEq] at hi
        subst hi; exact .inl ⟨j, hj, hb, hp⟩
      | succ i =>
        rw [List.getElem?_cons_succ] at hi
        refine .inr ⟨i, j, row, hi, hj, hb, ?_⟩
        rw [hrow i j (hlen hi)]
        rwa [show r + (i + 1) = r + 1 + i by omega] at hp

end Sys2Proof.Machine
end

