-- ==== Sys2Proof/Laws/PerInstr.lean ====
section
/-!
SUPPORT. The family RowMatch: the word an instruction encodes to lies in the instruction's own row of the opcode map
(30_encoding.md R85), one lemma per constructor.
-/

namespace Sys2Proof.Laws.RowMatch
open Sys2Proof

/-- The instruction's mask and pattern are a row of the opcode map, and its word selects that row. -/
def Statement (i : Instr) : Prop :=
  (i.mask, i.pattern) ∈ opcodeRows ∧ encode i &&& i.mask = i.pattern

/-- The shape `c nnn` under its class's mask. -/
theorem shape_nnn {c : Nat} (hc : c < 16) (nnn : Word) :
    wordCNnn c nnn &&& 0xF000#16 = BitVec.ofNat 16 (c * 0x1000) := by
  apply BitVec.eq_of_toNat_eq
  rw [toNat_and_F000, toNat_wordCNnn hc, BitVec.toNat_ofNat]
  omega

/-- The shape `c x kk` under its class's mask. -/
theorem shape_kk {c : Nat} (hc : c < 16) (x : RegIdx) (kk : Byte) :
    wordCXkk c x kk &&& 0xF000#16 = BitVec.ofNat 16 (c * 0x1000) := by
  have := x.isLt; have := kk.isLt
  apply BitVec.eq_of_toNat_eq
  rw [toNat_and_F000, toNat_wordCXkk hc, BitVec.toNat_ofNat]
  omega

/-- The shape `c x y n` under its class's mask. -/
theorem shape_xyn {c : Nat} (hc : c < 16) (x y n : Fin 16) :
    wordCXyn c x y n &&& 0xF000#16 = BitVec.ofNat 16 (c * 0x1000) := by
  have := x.isLt; have := y.isLt; have := n.isLt
  apply BitVec.eq_of_toNat_eq
  rw [toNat_and_F000, toNat_wordCXyn hc, BitVec.toNat_ofNat]
  omega

/-- The shape `c x y n` under the mask of its class and sub-selector. -/
theorem shape_sub_n {c : Nat} (hc : c < 16) (x y n : Fin 16) :
    wordCXyn c x y n &&& 0xF00F#16 = BitVec.ofNat 16 (c * 0x1000 + n.val) := by
  have := x.isLt; have := y.isLt; have := n.isLt
  apply BitVec.eq_of_toNat_eq
  rw [toNat_and_F00F, toNat_wordCXyn hc, BitVec.toNat_ofNat]
  omega

/-- The shape `c x kk` under the mask of its class and sub-selector. -/
theorem shape_sub_kk {c : Nat} (hc : c < 16) (x : RegIdx) (kk : Byte) :
    wordCXkk c x kk &&& 0xF0FF#16 = BitVec.ofNat 16 (c * 0x1000 + kk.toNat) := by
  have := x.isLt; have := kk.isLt
  apply BitVec.eq_of_toNat_eq
  rw [toNat_and_F0FF, toNat_wordCXkk hc, BitVec.toNat_ofNat]
  omega

theorem cls : Statement .cls :=
  ⟨by simp [opcodeRows, Instr.mask, Instr.pattern], rfl⟩

theorem ret : Statement .ret :=
  ⟨by simp [opcodeRows, Instr.mask, Instr.pattern], rfl⟩

theorem jp (nnn : Word) : Statement (.jp nnn) :=
  ⟨by simp [opcodeRows, Instr.mask, Instr.pattern], shape_nnn (by decide) _⟩

theorem call (nnn : Word) : Statement (.call nnn) :=
  ⟨by simp [opcodeRows, Instr.mask, Instr.pattern], shape_nnn (by decide) _⟩

theorem seImm (x : RegIdx) (kk : Byte) : Statement (.seImm x kk) :=
  ⟨by simp [opcodeRows, Instr.mask, Instr.pattern], shape_kk (by decide) _ _⟩

theorem sneImm (x : RegIdx) (kk : Byte) : Statement (.sneImm x kk) :=
  ⟨by simp [opcodeRows, Instr.mask, Instr.pattern], shape_kk (by decide) _ _⟩

theorem seReg (x y : RegIdx) : Statement (.seReg x y) :=
  ⟨by simp [opcodeRows, Instr.mask, Instr.pattern], shape_xyn (by decide) _ _ _⟩

theorem ldImm (x : RegIdx) (kk : Byte) : Statement (.ldImm x kk) :=
  ⟨by simp [opcodeRows, Instr.mask, Instr.pattern], shape_kk (by decide) _ _⟩

theorem addImm (x : RegIdx) (kk : Byte) : Statement (.addImm x kk) :=
  ⟨by simp [opcodeRows, Instr.mask, Instr.pattern], shape_kk (by decide) _ _⟩

theorem ldReg (x y : RegIdx) : Statement (.ldReg x y) :=
  ⟨by simp [opcodeRows, Instr.mask, Instr.pattern], shape_sub_n (by decide) _ _ _⟩

theorem orReg (x y : RegIdx) : Statement (.orReg x y) :=
  ⟨by simp [opcodeRows, Instr.mask, Instr.pattern], shape_sub_n (by decide) _ _ _⟩

theorem andReg (x y : RegIdx) : Statement (.andReg x y) :=
  ⟨by simp [opcodeRows, Instr.mask, Instr.pattern], shape_sub_n (by decide) _ _ _⟩

theorem xorReg (x y : RegIdx) : Statement (.xorReg x y) :=
  ⟨by simp [opcodeRows, Instr.mask, Instr.pattern], shape_sub_n (by decide) _ _ _⟩

theorem addReg (x y : RegIdx) : Statement (.addReg x y) :=
  ⟨by simp [opcodeRows, Instr.mask, Instr.pattern], shape_sub_n (by decide) _ _ _⟩

theorem subReg (x y : RegIdx) : Statement (.subReg x y) :=
  ⟨by simp [opcodeRows, Instr.mask, Instr.pattern], shape_sub_n (by decide) _ _ _⟩

theorem shr (x : RegIdx) : Statement (.shr x) :=
  ⟨by simp [opcodeRows, Instr.mask, Instr.pattern], shape_sub_n (by decide) _ _ _⟩

theorem subnReg (x y : RegIdx) : Statement (.subnReg x y) :=
  ⟨by simp [opcodeRows, Instr.mask, Instr.pattern], shape_sub_n (by decide) _ _ _⟩

theorem shl (x : RegIdx) : Statement (.shl x) :=
  ⟨by simp [opcodeRows, Instr.mask, Instr.pattern], shape_sub_n (by decide) _ _ _⟩

theorem sneReg (x y : RegIdx) : Statement (.sneReg x y) :=
  ⟨by simp [opcodeRows, Instr.mask, Instr.pattern], shape_xyn (by decide) _ _ _⟩

theorem ldI (nnn : Word) : Statement (.ldI nnn) :=
  ⟨by simp [opcodeRows, Instr.mask, Instr.pattern], shape_nnn (by decide) _⟩

theorem jpV0 (nnn : Word) : Statement (.jpV0 nnn) :=
  ⟨by simp [opcodeRows, Instr.mask, Instr.pattern], shape_nnn (by decide) _⟩

theorem rnd (x : RegIdx) (kk : Byte) : Statement (.rnd x kk) :=
  ⟨by simp [opcodeRows, Instr.mask, Instr.pattern], shape_kk (by decide) _ _⟩

theorem drw (x y : RegIdx) (n : Fin 16) : Statement (.drw x y n) :=
  ⟨by simp [opcodeRows, Instr.mask, Instr.pattern], shape_xyn (by decide) _ _ _⟩

theorem skp (x : RegIdx) : Statement (.skp x) :=
  ⟨by simp [opcodeRows, Instr.mask, Instr.pattern], shape_sub_kk (by decide) _ _⟩

theorem sknp (x : RegIdx) : Statement (.sknp x) :=
  ⟨by simp [opcodeRows, Instr.mask, Instr.pattern], shape_sub_kk (by decide) _ _⟩

theorem ldVxDt (x : RegIdx) : Statement (.ldVxDt x) :=
  ⟨by simp [opcodeRows, Instr.mask, Instr.pattern], shape_sub_kk (by decide) _ _⟩

theorem ldVxK (x : RegIdx) : Statement (.ldVxK x) :=
  ⟨by simp [opcodeRows, Instr.mask, Instr.pattern], shape_sub_kk (by decide) _ _⟩

theorem ldDtVx (x : RegIdx) : Statement (.ldDtVx x) :=
  ⟨by simp [opcodeRows, Instr.mask, Instr.pattern], shape_sub_kk (by decide) _ _⟩

theorem ldStVx (x : RegIdx) : Statement (.ldStVx x) :=
  ⟨by simp [opcodeRows, Instr.mask, Instr.pattern], shape_sub_kk (by decide) _ _⟩

theorem addI (x : RegIdx) : Statement (.addI x) :=
  ⟨by simp [opcodeRows, Instr.mask, Instr.pattern], shape_sub_kk (by decide) _ _⟩

theorem ldF (x : RegIdx) : Statement (.ldF x) :=
  ⟨by simp [opcodeRows, Instr.mask, Instr.pattern], shape_sub_kk (by decide) _ _⟩

theorem ldB (x : RegIdx) : Statement (.ldB x) :=
  ⟨by simp [opcodeRows, Instr.mask, Instr.pattern], shape_sub_kk (by decide) _ _⟩

theorem storeBlock (x : RegIdx) : Statement (.storeBlock x) :=
  ⟨by simp [opcodeRows, Instr.mask, Instr.pattern], shape_sub_kk (by decide) _ _⟩

theorem loadBlock (x : RegIdx) : Statement (.loadBlock x) :=
  ⟨by simp [opcodeRows, Instr.mask, Instr.pattern], shape_sub_kk (by decide) _ _⟩

end Sys2Proof.Laws.RowMatch
end

