-- ==== Sys2Proof/Laws/Step.lean ====
section
/-!
SUPPORT. What a cycle, a host move and a step can do, said once, and what a tick leaves alone (40_cycle.md R100;
60_exceptions.md R218, R219).
-/

namespace Sys2Proof.Machine

/-! ## Fields a tick leaves alone (60_exceptions.md R218) -/

@[simp] theorem tick_params (s : State) : (tick s).params = s.params := by
  simp only [tick, tickFrame, tickSound, tickDelay]
  split <;> split <;> (try split) <;> (try split) <;> rfl

@[simp] theorem tick_v (s : State) : (tick s).v = s.v := by
  simp only [tick, tickFrame, tickSound, tickDelay]
  split <;> split <;> (try split) <;> (try split) <;> rfl

@[simp] theorem tick_i (s : State) : (tick s).i = s.i := by
  simp only [tick, tickFrame, tickSound, tickDelay]
  split <;> split <;> (try split) <;> (try split) <;> rfl

@[simp] theorem tick_pc (s : State) : (tick s).pc = s.pc := by
  simp only [tick, tickFrame, tickSound, tickDelay]
  split <;> split <;> (try split) <;> (try split) <;> rfl

@[simp] theorem tick_sp (s : State) : (tick s).sp = s.sp := by
  simp only [tick, tickFrame, tickSound, tickDelay]
  split <;> split <;> (try split) <;> (try split) <;> rfl

@[simp] theorem tick_stack (s : State) : (tick s).stack = s.stack := by
  simp only [tick, tickFrame, tickSound, tickDelay]
  split <;> split <;> (try split) <;> (try split) <;> rfl

@[simp] theorem tick_keys (s : State) : (tick s).keys = s.keys := by
  simp only [tick, tickFrame, tickSound, tickDelay]
  split <;> split <;> (try split) <;> (try split) <;> rfl

@[simp] theorem tick_fb (s : State) : (tick s).fb = s.fb := by
  simp only [tick, tickFrame, tickSound, tickDelay]
  split <;> split <;> (try split) <;> (try split) <;> rfl

@[simp] theorem tick_status (s : State) : (tick s).status = s.status := by
  simp only [tick, tickFrame, tickSound, tickDelay]
  split <;> split <;> (try split) <;> (try split) <;> rfl

@[simp] theorem tick_mem (s : State) : (tick s).mem = s.mem := by
  simp only [tick, tickFrame, tickSound, tickDelay]
  split <;> split <;> (try split) <;> (try split) <;> rfl

@[simp] theorem tick_inbox (s : State) : (tick s).inbox = s.inbox := by
  simp only [tick, tickFrame, tickSound, tickDelay]
  split <;> split <;> (try split) <;> (try split) <;> rfl

@[simp] theorem tick_randDraws (s : State) : (tick s).randDraws = s.randDraws := by
  simp only [tick, tickFrame, tickSound, tickDelay]
  split <;> split <;> (try split) <;> (try split) <;> rfl

@[simp] theorem tick_tickDraws (s : State) : (tick s).tickDraws = s.tickDraws := by
  simp only [tick, tickFrame, tickSound, tickDelay]
  split <;> split <;> (try split) <;> (try split) <;> rfl

/-- A tick leaves every register alone. -/
@[simp] theorem getV_tick (s : State) (k : RegIdx) : (tick s).getV k = s.getV k :=
  getV_congr (tick_v s) k

/-- A tick leaves every byte of memory alone. -/
@[simp] theorem read_tick (s : State) (a : Nat) : (tick s).read a = s.read a :=
  read_congr (tick_params s) (tick_mem s) a

/-! ## The cycle -/

/-- What the end of a cycle makes of a next state. -/
theorem endCycle_next (ticks : Bool) (u : State) :
    endCycle ticks (.next u) = .next (if ticks && u.status.isRunning then tick u else u) := rfl

/-- A next state at the end of a cycle comes from a next state of its instruction. -/
theorem endCycle_cases {ticks : Bool} {r : Result} {t : State} (h : endCycle ticks r = .next t) :
    ∃ u, r = .next u ∧
      ((ticks = true ∧ u.status.isRunning = true ∧ t = tick u) ∨
        ((ticks = false ∨ u.status.isRunning = false) ∧ t = u)) := by
  cases r with
  | next u =>
    refine ⟨u, rfl, ?_⟩
    rw [endCycle_next, Host.Outcome.next.injEq] at h
    subst h
    cases ticks <;> cases u.status.isRunning <;> simp
  | fault r => cases h
  | refused r => cases h

theorem isRunning_iff {q : Status} : q.isRunning = true ↔ q = .running := by
  cases q <;> simp [Status.isRunning]

/-- A halted core does nothing in a cycle (40_cycle.md R107). -/
theorem cycle_halted {s : State} {r : FaultRecord} (h : s.status = .halted r) (ticks : Bool) :
    cycle ticks s = .next s := by
  simp only [cycle, h]

/-- A running core whose fetch faults halts (40_cycle.md R101). -/
theorem cycle_fetchFault {s : State} {c : FaultCause} (h : s.status = .running) (hf : s.fetch = .error c)
    (ticks : Bool) : cycle ticks s = raise c s := by
  simp only [cycle, h, hf]

/-- A running core executes its fetched word, then ends the cycle (40_cycle.md R100). -/
theorem cycle_word {s : State} {w : Word} (h : s.status = .running) (hf : s.fetch = .ok w) (ticks : Bool) :
    cycle ticks s = endCycle ticks (executeWord w s) := by
  simp only [cycle, h, hf]

/-- Everything a cycle can do. -/
theorem cycle_cases {s t : State} {ticks : Bool} (h : cycle ticks s = .next t) :
    (∃ r, s.status = .halted r ∧ t = s) ∨
      (∃ c, s.status = .running ∧ s.fetch = .error c ∧
        t = s.setStatus (.halted { cause := c, pc := s.pc, word := none })) ∨
      (∃ w u, s.status = .running ∧ s.fetch = .ok w ∧ executeWord w s = .next u ∧
        ((ticks = true ∧ u.status = .running ∧ t = tick u) ∨
          ((ticks = false ∨ u.status ≠ .running) ∧ t = u))) := by
  cases hs : s.status with
  | halted r =>
    rw [cycle_halted hs, Host.Outcome.next.injEq] at h
    exact .inl ⟨r, rfl, h.symm⟩
  | running =>
    cases hf : s.fetch with
    | error c =>
      rw [cycle_fetchFault hs hf, raise_eq, fetchedWord_error hf, Host.Outcome.next.injEq] at h
      exact .inr (.inl ⟨c, rfl, rfl, h.symm⟩)
    | ok w =>
      rw [cycle_word hs hf] at h
      obtain ⟨u, hu, hc⟩ := endCycle_cases h
      refine .inr (.inr ⟨w, u, rfl, rfl, hu, ?_⟩)
      simpa only [← isRunning_iff, Bool.not_eq_true, ne_eq] using hc

/-- Everything executing a word can do: its instruction, or for an unrecognised word what the machine's policy says,
the silent no-op or the fault. -/
theorem executeWord_cases {s t : State} {w : Word} (h : executeWord w s = .next t) :
    (∃ i, decodeWord w = .ok i ∧ exec i s = .next t) ∨ (∃ e, decodeWord w = .error e ∧
      ((s.params.illegalPolicy = .stall ∧ t = s) ∨
        (s.params.illegalPolicy = .fault ∧
          t = s.setStatus (.halted { cause := .illegalInstruction w, pc := s.pc, word := s.fetchedWord })))) := by
  cases hd : decodeWord w with
  | ok i => simp only [executeWord, hd] at h; exact .inl ⟨i, rfl, h⟩
  | error e =>
    refine .inr ⟨e, rfl, ?_⟩
    cases hp : s.params.illegalPolicy with
    | stall =>
      simp only [executeWord, hd, hp, unrecognised, Host.Outcome.next.injEq] at h
      exact .inl ⟨rfl, h.symm⟩
    | fault =>
      simp only [executeWord, hd, hp, unrecognised, raise_eq, Host.Outcome.next.injEq] at h
      exact .inr ⟨rfl, h.symm⟩

/-! ## The step -/

/-- A step that takes a pending move. -/
theorem step_move {s : State} {m : HostMove} {rest : List HostMove} (h : s.inbox = m :: rest) :
    step s = hostMove m (s.setInbox rest) := by
  simp only [step, takeMove, h]

/-- A step with no move pending: a cycle whose tick input is a free value. -/
theorem step_noMove {s : State} (h : s.inbox = []) :
    step s = cycle (Config.tickRequest s.tickDraws) s.countTickDraw := by
  simp only [step, takeMove, h]

/-- Everything a step can do: a cycle, a key event, a load or a status read. -/
theorem step_cases {s t : State} (h : step s = .next t) :
    (∃ ticks s', cycle ticks s' = .next t ∧
      ((∃ rest, s.inbox = .cycle ticks :: rest ∧ s' = s.setInbox rest) ∨
        (s.inbox = [] ∧ s' = s.countTickDraw))) ∨
      (∃ rest k down, t = keyEvent k down (s.setInbox rest)) ∨
      (∃ rest image, t = loadImage image (s.setInbox rest)) ∨
      (∃ rest, t = readStatus (s.setInbox rest)) := by
  cases hi : s.inbox with
  | nil =>
    rw [step_noMove hi] at h
    exact .inl ⟨_, _, h, .inr ⟨rfl, rfl⟩⟩
  | cons m rest =>
    rw [step_move hi] at h
    cases m with
    | cycle ticks => exact .inl ⟨ticks, _, h, .inl ⟨rest, rfl, rfl⟩⟩
    | keyDown k => exact .inr (.inl ⟨rest, k, true, (Host.Outcome.next.inj h).symm⟩)
    | keyUp k => exact .inr (.inl ⟨rest, k, false, (Host.Outcome.next.inj h).symm⟩)
    | load image => exact .inr (.inr (.inl ⟨rest, image, (Host.Outcome.next.inj h).symm⟩))
    | readStatus => exact .inr (.inr (.inr ⟨rest, (Host.Outcome.next.inj h).symm⟩))

end Sys2Proof.Machine
end

