-- ==== Sys2Proof/Tests/Slice0.lean ====
section
/-!
SUPPORT. Tests of the model against values of the spec: words of 30_encoding.md R85, vectors of 95_test_vectors.md, and a
witness for the hypotheses of every obligation that has some.
-/

namespace Sys2Proof.Tests
open Sys2Proof.Machine Sys2Proof.Safety

/-! ## Helpers -/

/-- A field of the next state, if there is one. -/
def after {α : Type} (r : Result) (f : State → α) : Option α :=
  match r with
  | .next s => some (f s)
  | .fault _ => none
  | .refused _ => none

/-- Two registers set over the state after construction. -/
def vv (x : RegIdx) (a : Byte) (y : RegIdx) (b : Byte) : State := (State.reset.setV x a).setV y b

/-- The state after construction with `I` and the bytes there. -/
def bytesAt (a : Word) (bs : List Byte) : State :=
  (State.reset.setI a).store a.toNat bs

/-- The state after construction with `sp` stack entries in use, all 0x204. -/
def depth (sp : Fin 257) : State := State.reset.setStack (Vector.replicate 256 0x204) sp

/-- The state after construction with a word placed at `PC` and the given host moves. -/
def wordAt (w : Word) (moves : List HostMove) : State :=
  (State.reset.store 0x200 [highByte w, lowByte w]).setInbox moves

/-- The hardware's parameters but for `ILLEGAL_POLICY = Fault`. -/
def faultingParams : Params := { hardwareParams with illegalPolicy := .fault }

/-- The hardware's parameters but for a blank `FONT` and 16 stack entries. -/
def otherParams : Params := { hardwareParams with font := Vector.replicate 80 0, stackDepth := 16 }

/-- A core halted by a RET on an empty stack at 0x200. -/
def haltedCore : State :=
  State.reset.setStatus (.halted { cause := .stackUnderflow 0, pc := 0x200, word := some 0x00EE })

/-- How many events of each kind were emitted: frames and tones, in order. -/
def kinds (es : List PortEvent) : List Nat :=
  es.map (fun e => match e with
    | .frame _ => 1
    | .tone _ => 2
    | .loadAnswer _ => 3
    | .keyError _ => 4
    | .status _ => 5)

/-! ## WellFormed: an ill-formed term for each check (30_encoding.md R82) -/

theorem test_illFormed :
    (Instr.jp 0x1000).wellFormed = false ∧ (Instr.call 0x1000).wellFormed = false ∧
    (Instr.ldI 0x1000).wellFormed = false ∧ (Instr.jpV0 0xFFFF).wellFormed = false := by decide

theorem test_wellFormed :
    (Instr.jp 0xFFF).wellFormed = true ∧ (Instr.call 0xFFF).wellFormed = true ∧
    (Instr.ldI 0xFFF).wellFormed = true ∧ (Instr.jpV0 0).wellFormed = true := by decide

/-! ## Decoding: a word of each row written out from its pattern (30_encoding.md R85, R86) -/

theorem test_decode_cls : decodeWord 0x00E0 = .ok .cls ∧ decodeWord 0x03E0 = .ok .cls := by decide
theorem test_decode_ret : decodeWord 0x00EE = .ok .ret ∧ decodeWord 0x05EE = .ok .ret := by decide
theorem test_decode_jp : decodeWord 0b0001_1010_1011_1100 = .ok (.jp 0xABC) := by decide
theorem test_decode_call : decodeWord 0b0010_0011_0000_0001 = .ok (.call 0x301) := by decide
theorem test_decode_seImm : decodeWord 0b0011_0101_1000_0001 = .ok (.seImm 5 0x81) := by decide
theorem test_decode_sneImm : decodeWord 0b0100_1111_0001_0010 = .ok (.sneImm 15 0x12) := by decide
theorem test_decode_seReg :
    decodeWord 0b0101_0001_0010_0000 = .ok (.seReg 1 2) ∧ decodeWord 0x512F = .ok (.seReg 1 2) := by decide
theorem test_decode_ldImm : decodeWord 0b0110_1010_0010_1011 = .ok (.ldImm 10 0x2B) := by decide
theorem test_decode_addImm : decodeWord 0b0111_0010_1111_0000 = .ok (.addImm 2 0xF0) := by decide
theorem test_decode_ldReg : decodeWord 0b1000_0001_0101_0000 = .ok (.ldReg 1 5) := by decide
theorem test_decode_orReg : decodeWord 0b1000_0001_0010_0001 = .ok (.orReg 1 2) := by decide
theorem test_decode_andReg : decodeWord 0b1000_0010_0001_0010 = .ok (.andReg 2 1) := by decide
theorem test_decode_xorReg : decodeWord 0b1000_1111_0010_0011 = .ok (.xorReg 15 2) := by decide
theorem test_decode_addReg : decodeWord 0b1000_0001_1111_0100 = .ok (.addReg 1 15) := by decide
theorem test_decode_subReg : decodeWord 0b1000_0011_0100_0101 = .ok (.subReg 3 4) := by decide
theorem test_decode_shr : decodeWord 0b1000_0100_0000_0110 = .ok (.shr 4) ∧ decodeWord 0x84F6 = .ok (.shr 4) := by decide
theorem test_decode_subnReg : decodeWord 0b1000_0001_0010_0111 = .ok (.subnReg 1 2) := by decide
theorem test_decode_shl : decodeWord 0b1000_0100_0000_1110 = .ok (.shl 4) ∧ decodeWord 0x8A5E = .ok (.shl 10) := by decide
theorem test_decode_sneReg :
    decodeWord 0b1001_0001_0010_0000 = .ok (.sneReg 1 2) ∧ decodeWord 0x9123 = .ok (.sneReg 1 2) := by decide
theorem test_decode_ldI : decodeWord 0b1010_0010_1111_0000 = .ok (.ldI 0x2F0) := by decide
theorem test_decode_jpV0 : decodeWord 0b1011_0011_0000_0000 = .ok (.jpV0 0x300) := by decide
theorem test_decode_rnd : decodeWord 0b1100_0011_0000_1111 = .ok (.rnd 3 0x0F) := by decide
theorem test_decode_drw : decodeWord 0b1101_0001_1111_0011 = .ok (.drw 1 15 3) := by decide
theorem test_decode_skp : decodeWord 0b1110_0010_1001_1110 = .ok (.skp 2) := by decide
theorem test_decode_sknp : decodeWord 0b1110_0010_1010_0001 = .ok (.sknp 2) := by decide
theorem test_decode_ldVxDt : decodeWord 0b1111_0100_0000_0111 = .ok (.ldVxDt 4) := by decide
theorem test_decode_ldVxK : decodeWord 0b1111_0011_0000_1010 = .ok (.ldVxK 3) := by decide
theorem test_decode_ldDtVx : decodeWord 0b1111_0110_0001_0101 = .ok (.ldDtVx 6) := by decide
theorem test_decode_ldStVx : decodeWord 0b1111_0110_0001_1000 = .ok (.ldStVx 6) := by decide
theorem test_decode_addI : decodeWord 0b1111_0001_0001_1110 = .ok (.addI 1) := by decide
theorem test_decode_ldF : decodeWord 0b1111_0010_0010_1001 = .ok (.ldF 2) := by decide
theorem test_decode_ldB : decodeWord 0b1111_0101_0011_0011 = .ok (.ldB 5) := by decide
theorem test_decode_storeBlock : decodeWord 0b1111_0010_0101_0101 = .ok (.storeBlock 2) := by decide
theorem test_decode_loadBlock : decodeWord 0b1111_0010_0110_0101 = .ok (.loadBlock 2) := by decide

/-- F7: words that no row matches. -/
theorem test_unrecognised :
    decodeWord 0x8128 = .error (.class8 0x8128) ∧ decodeWord 0x812F = .error (.class8 0x812F) ∧
    decodeWord 0xE1FF = .error (.classE 0xE1FF) ∧ decodeWord 0xF1FF = .error (.classF 0xF1FF) ∧
    decodeWord 0x0123 = .error (.class0 0x0123) ∧ decodeWord 0x00FF = .error (.class0 0x00FF) := by decide

/-- R80: one byte is no instruction. -/
theorem test_truncated : decode [0x00] = .error .truncated ∧ decode [] = .error .truncated := by decide

/-- F1: the byte at the lower address is the word's high byte. -/
theorem test_fetch_bigEndian : (bytesAt 0x200 [0x12, 0x34]).fetch = .ok 0x1234 := by decide

/-- The bytes of 6A2B in memory order. -/
theorem test_encodeBytes : encodeBytes (.ldImm 10 0x2B) = [0x6A, 0x2B] := by decide

/-! ## Reset and the font (20_memory.md R53, 10_state.md R37) -/

/-- Glyphs 0, 8 and F of the hardware's font, `fontTable`. -/
theorem test_font :
    (State.resetWith hardwareParams).readBytes 0x000 5 = [0xF0, 0x90, 0x90, 0x90, 0xF0] ∧
    (State.resetWith hardwareParams).readBytes 0x028 5 = [0xF0, 0x90, 0xF0, 0x90, 0xF0] ∧
    (State.resetWith hardwareParams).readBytes 0x04B 6 = [0xF0, 0x80, 0xF0, 0x80, 0x80, 0x00] := by decide

/-- R11: another `FONT` is what is read, and another `STACK_DEPTH` is where a CALL halts (95_test_vectors.md P5). -/
theorem test_other_params :
    (State.resetWith otherParams).readBytes 0x000 5 = [0, 0, 0, 0, 0] ∧
    after (exec (.call 0x200) ((State.resetWith otherParams).setStack (Vector.replicate 256 0x200) 15)) (·.sp) = some 16 ∧
    after (exec (.call 0x200) ((State.resetWith otherParams).setStack (Vector.replicate 256 0x200) 16))
      (fun t => (t.sp, match t.status with
        | .halted r => some r.cause
        | .running => none)) = some (16, some (.stackOverflow 16)) := by decide

/-- A byte written over a blank font and put back leaves the memory as it was: one canonical form. -/
theorem test_memory_canonical :
    memWrite otherParams.font [] 0x001 0 = [] ∧
    memWrite otherParams.font (memWrite otherParams.font [] 0x001 0x55) 0x001 0 = [] ∧
    memWrite otherParams.font (memWrite otherParams.font [] 0x300 7) 0x001 5 = [(0x001, 5), (0x300, 7)] := by decide

/-! ## Control transfer (95_test_vectors.md, C vectors) -/

/-- C1. -/
theorem test_jp : after (exec (.jp 0x200) (State.reset.setPc 0x202)) (·.pc) = some 0x200 := by decide
/-- C4. -/
theorem test_call :
    after (exec (.call 0x300) State.reset) (fun t => (t.stack[0], t.sp, t.pc)) = some (0x200, 1, 0x300) := by decide
/-- C7. -/
theorem test_call_full :
    after (exec (.call 0x300) (depth 256)) (fun t => (t.sp, t.pc, match t.status with
      | .halted r => some (r.cause, r.pc)
      | .running => none)) = some (256, 0x200, some (.stackOverflow 256, 0x200)) := by decide
/-- C8. -/
theorem test_ret : after (exec .ret (depth 1)) (fun t => (t.sp, t.pc)) = some (0, 0x206) := by decide
/-- C6. -/
theorem test_ret_empty :
    after (exec .ret (State.reset.setPc 0x250)) (fun t => (t.sp, t.pc, match t.status with
      | .halted r => some (r.cause, r.pc)
      | .running => none)) = some (0, 0x250, some (.stackUnderflow 0, 0x250)) := by decide
/-- C9, C10. -/
theorem test_seImm :
    after (exec (.seImm 3 0x12) (State.reset.setV 3 0x12)) (·.pc) = some 0x204 ∧
    after (exec (.seImm 3 0x12) (State.reset.setV 3 0x13)) (·.pc) = some 0x202 := by decide
/-- C11, C12. -/
theorem test_sneImm :
    after (exec (.sneImm 3 0x12) (State.reset.setV 3 0x12)) (·.pc) = some 0x202 ∧
    after (exec (.sneImm 3 0x12) State.reset) (·.pc) = some 0x204 := by decide
/-- C14, C15. -/
theorem test_seReg :
    after (exec (.seReg 1 2) (vv 1 7 2 7)) (·.pc) = some 0x204 ∧
    after (exec (.seReg 1 2) (vv 1 7 2 8)) (·.pc) = some 0x202 := by decide
/-- C16, C17. -/
theorem test_sneReg :
    after (exec (.sneReg 1 2) (vv 1 7 2 8)) (·.pc) = some 0x204 ∧
    after (exec (.sneReg 1 1) (vv 1 7 2 8)) (·.pc) = some 0x202 := by decide
/-- C18, C19. -/
theorem test_jpV0 :
    after (exec (.jpV0 0x300) (State.reset.setV 0 0x10)) (·.pc) = some 0x310 ∧
    after (exec (.jpV0 0xFFF) (State.reset.setV 0 0xFF)) (·.pc) = some 0x10FE := by decide
/-- C20: a skip past the end, and the fetch fault of the next cycle. -/
theorem test_skip_past_end :
    after (exec (.seImm 1 0) (State.reset.setPc 0xFFC)) (·.pc) = some 0x1000 ∧
    after (cycle false (State.reset.setPc 0x1000)) (·.status)
      = some (.halted { cause := .addressOutOfRange 0x1000, pc := 0x1000, word := none }) := by decide

/-! ## ALU (A vectors): `V[x]`, VF -/

/-- A1. -/
theorem test_ldImm : after (exec (.ldImm 10 0x2B) State.reset) (fun t => (t.getV 10, t.pc)) = some (0x2B, 0x202) := by decide
/-- A2. -/
theorem test_addImm :
    after (exec (.addImm 1 0x02) (vv 1 0xFF 15 1)) (fun t => (t.getV 1, t.getV 15, t.pc)) = some (1, 1, 0x202) := by decide
/-- A3. -/
theorem test_addImm_vf : after (exec (.addImm 15 1) (vv 15 0xFF 1 0)) (·.getV 15) = some 0 := by decide
/-- A4. -/
theorem test_ldReg :
    after (exec (.ldReg 1 2) (vv 2 0x99 15 0x55)) (fun t => (t.getV 1, t.getV 2, t.getV 15)) = some (0x99, 0x99, 0x55) := by
  decide
/-- A5, with VF at 1 before. -/
theorem test_orReg :
    after (exec (.orReg 1 2) ((vv 1 0xF0 2 0x0F).setV 15 1)) (fun t => (t.getV 1, t.getV 15)) = some (0xFF, 0) := by decide
/-- A9: `x = 15`. -/
theorem test_orReg_vf : after (exec (.orReg 15 2) (vv 15 0x12 2 1)) (·.getV 15) = some 0 := by decide
/-- A6. -/
theorem test_andReg :
    after (exec (.andReg 1 2) ((vv 1 0xF0 2 0x3C).setV 15 1)) (fun t => (t.getV 1, t.getV 15)) = some (0x30, 0) := by decide
/-- A7. -/
theorem test_xorReg :
    after (exec (.xorReg 1 2) ((vv 1 0xF0 2 0x3C).setV 15 1)) (fun t => (t.getV 1, t.getV 15)) = some (0xCC, 0) := by decide
/-- A10, A11. -/
theorem test_addReg :
    after (exec (.addReg 1 2) (vv 1 0x80 2 0x7F)) (fun t => (t.getV 1, t.getV 15)) = some (0xFF, 0) ∧
    after (exec (.addReg 1 2) (vv 1 0x80 2 0x80)) (fun t => (t.getV 1, t.getV 15)) = some (0x00, 1) := by decide
/-- A13, A14, A15: VF as the addend, and as the destination. -/
theorem test_addReg_vf :
    after (exec (.addReg 1 15) (vv 1 0x01 15 0xFF)) (fun t => (t.getV 1, t.getV 15)) = some (0x00, 1) ∧
    after (exec (.addReg 15 2) (vv 15 0xFF 2 0x01)) (·.getV 15) = some 1 ∧
    after (exec (.addReg 15 2) (vv 15 0x10 2 0x01)) (·.getV 15) = some 0 := by decide
/-- W2. -/
theorem test_subReg :
    after (exec (.subReg 1 2) (vv 1 5 2 3)) (fun t => (t.getV 1, t.getV 15)) = some (0x02, 1) ∧
    after (exec (.subReg 1 2) (vv 1 3 2 5)) (fun t => (t.getV 1, t.getV 15)) = some (0xFE, 0) := by decide
/-- A16, A18. -/
theorem test_subReg_equal :
    after (exec (.subReg 1 2) (vv 1 5 2 5)) (fun t => (t.getV 1, t.getV 15)) = some (0, 1) ∧
    after (exec (.subReg 1 1) (vv 1 0x77 2 5)) (fun t => (t.getV 1, t.getV 15)) = some (0, 1) := by decide
/-- A20, A22; `V[y]` is not read. -/
theorem test_shr :
    after (exec (.shr 1) (vv 1 0x80 2 0xFF)) (fun t => (t.getV 1, t.getV 15)) = some (0x40, 0) ∧
    after (exec (.shr 1) (vv 1 0xFF 2 0)) (fun t => (t.getV 1, t.getV 15)) = some (0x7F, 1) := by decide
/-- A23. -/
theorem test_shr_vf : after (exec (.shr 15) (vv 15 3 1 0)) (·.getV 15) = some 1 := by decide
/-- A25, A26. -/
theorem test_subnReg :
    after (exec (.subnReg 1 2) (vv 1 3 2 5)) (fun t => (t.getV 1, t.getV 15)) = some (0x02, 1) ∧
    after (exec (.subnReg 1 2) (vv 1 5 2 3)) (fun t => (t.getV 1, t.getV 15)) = some (0xFE, 0) := by decide
/-- A28, A29. -/
theorem test_shl :
    after (exec (.shl 1) (vv 1 0x81 2 0)) (fun t => (t.getV 1, t.getV 15)) = some (0x02, 1) ∧
    after (exec (.shl 1) (vv 1 0x40 2 0)) (fun t => (t.getV 1, t.getV 15)) = some (0x80, 0) := by decide
/-- A32, A33. -/
theorem test_shl_vf :
    after (exec (.shl 15) (vv 15 0x80 1 0)) (·.getV 15) = some 1 ∧
    after (exec (.shl 15) (vv 15 0x7F 1 0)) (·.getV 15) = some 0 := by decide
/-- A36: with mask 0xFF the register is the raw byte of the draw, whatever it is; the next RND takes another draw. -/
theorem test_rnd :
    after (exec (.rnd 1 0xFF) State.reset) (fun t => (t.getV 1 = Config.randomByte 0 &&& 0xFF, t.randDraws, t.pc))
      = some (True, 1, 0x202) := by
  simp [after, exec, execRnd, State.getV, State.setV, State.countRandDraw, State.advance, State.setPc, State.reset, State.resetWith, trunc16]

/-! ## Display (D vectors) -/

/-- D1. -/
theorem test_cls :
    after (exec .cls (State.reset.setFb (setPixel clearFb 3 4 true))) (fun t => (pixel t.fb 3 4, t.dirty, t.pc))
      = some (false, true, 0x202) := by decide
/-- D2, on glyph 0 of the hardware's `fontTable`: row 0, the left and right edges of row 1, row 4. -/
theorem test_drw :
    after (exec (.drw 0 1 5) (State.resetWith hardwareParams)) (fun t =>
      ([pixel t.fb 0 0, pixel t.fb 0 3, pixel t.fb 0 4, pixel t.fb 1 0, pixel t.fb 1 1, pixel t.fb 1 3, pixel t.fb 4 2,
        pixel t.fb 5 0], t.getV 15, t.dirty, t.i))
      = some ([true, true, false, true, false, true, true, false], 0, true, 0) := by decide
/-- D9 and D11: the row is the old VF; a collision. -/
theorem test_drw_vf :
    after (exec (.drw 1 15 1) ((bytesAt 0x300 [0x80]).setV 15 5)) (fun t => (pixel t.fb 5 0, pixel t.fb 0 0, t.getV 15))
      = some (true, false, 0) ∧
    after (exec (.drw 0 1 1) ((bytesAt 0x300 [0xC0]).setFb (setPixel clearFb 0 0 true)))
      (fun t => (pixel t.fb 0 0, pixel t.fb 0 1, t.getV 15, t.dirty)) = some (false, true, 1, true) := by decide
/-- D5, D7: columns and rows wrap. -/
theorem test_drw_wrap :
    after (exec (.drw 0 1 1) ((bytesAt 0x300 [0xFF]).setV 0 0x3C))
      (fun t => [pixel t.fb 0 59, pixel t.fb 0 60, pixel t.fb 0 63, pixel t.fb 0 3, pixel t.fb 0 4])
      = some [false, true, true, true, false] ∧
    after (exec (.drw 0 1 1) (((bytesAt 0x300 [0x80]).setV 0 0x41).setV 1 0x22)) (fun t => pixel t.fb 2 1)
      = some true := by decide
/-- D8: nothing is written, VF included; D4: `n = 0` reads nothing and clears VF. -/
theorem test_drw_bounds :
    after (exec (.drw 0 0 3) ((State.reset.setI 0xFFE).setV 15 0x55)) (fun t => (t.getV 15, t.dirty, match t.status with
      | .halted r => some r.cause
      | .running => none)) = some (0x55, false, some (.addressOutOfRange 0x1000)) ∧
    after (exec (.drw 0 1 0) ((State.reset.setI 0xFFFF).setV 15 1)) (fun t => (t.getV 15, t.dirty, t.status))
      = some (0, false, .running) := by decide

/-! ## Keys and timer registers (K vectors) -/

/-- K1, K2. -/
theorem test_skp :
    after (exec (.skp 2) ((State.reset.setV 2 5).setKey 5 true)) (·.pc) = some 0x204 ∧
    after (exec (.skp 2) (State.reset.setV 2 5)) (·.pc) = some 0x202 := by decide
/-- K5. -/
theorem test_skp_range :
    after (exec (.skp 2) (State.reset.setV 2 0x10)) (fun t => (t.pc, match t.status with
      | .halted r => some r.cause
      | .running => none)) = some (0x200, some (.keyIndexOutOfRange 0x10)) := by decide
/-- K3, K4. -/
theorem test_sknp :
    after (exec (.sknp 2) (State.reset.setV 2 5)) (·.pc) = some 0x204 ∧
    after (exec (.sknp 2) ((State.reset.setV 2 5).setKey 5 true)) (·.pc) = some 0x202 := by decide
/-- K6. -/
theorem test_ldVxDt : after (exec (.ldVxDt 4) (State.reset.setDt 0x3C)) (fun t => (t.getV 4, t.pc)) = some (0x3C, 0x202) := by
  decide
/-- W6: the lowest key. -/
theorem test_ldVxK :
    after (exec (.ldVxK 3) ((State.reset.setKey 12 true).setKey 7 true)) (fun t => (t.getV 3, t.pc)) = some (7, 0x202) := by
  decide
/-- K7: no key, no advance. -/
theorem test_ldVxK_waits :
    after (exec (.ldVxK 3) (State.reset.setV 3 9)) (fun t => (t.getV 3, t.pc)) = some (9, 0x200) := by decide
/-- K9. -/
theorem test_ldDtVx : after (exec (.ldDtVx 6) (State.reset.setV 6 5)) (fun t => (t.dt, t.st)) = some (5, 0) := by decide
/-- K10. -/
theorem test_ldStVx :
    after (exec (.ldStVx 6) (State.reset.setV 6 2)) (fun t => (t.st, t.dt, t.emitted)) = some (2, 0, []) := by decide

/-! ## Address register and memory transfers (M vectors) -/

/-- M1. -/
theorem test_ldI : after (exec (.ldI 0x2F0) State.reset) (fun t => (t.i, t.pc)) = some (0x2F0, 0x202) := by decide
/-- M2, M3. -/
theorem test_addI :
    after (exec (.addI 1) ((vv 1 5 15 0x55).setI 0x0FFE)) (fun t => (t.i, t.getV 15)) = some (0x1003, 0x55) ∧
    after (exec (.addI 1) ((vv 1 2 15 0).setI 0xFFFF)) (·.i) = some 1 := by decide
/-- M4, M5. -/
theorem test_ldF :
    after (exec (.ldF 2) (State.reset.setV 2 0x0A)) (·.i) = some 0x032 ∧
    after (exec (.ldF 2) (State.reset.setV 2 0xFF)) (·.i) = some 0x4FB := by decide
/-- M6. -/
theorem test_ldB :
    after (exec (.ldB 5) ((State.reset.setV 5 0xFE).setI 0x300)) (fun t => (t.readBytes 0x300 4, t.i))
      = some ([2, 5, 4, 0], 0x300) := by decide
/-- M9. -/
theorem test_ldB_bounds :
    after (exec (.ldB 5) ((State.reset.setV 5 9).setI 0xFFE)) (fun t => (t.mem, match t.status with
      | .halted r => some r.cause
      | .running => none)) = some ([], some (.addressOutOfRange 0x1000)) := by decide
/-- M10. -/
theorem test_storeBlock :
    after (exec (.storeBlock 2) (((vv 0 1 1 2).setV 2 3).setI 0x400)) (fun t => (t.readBytes 0x400 4, t.i))
      = some ([1, 2, 3, 0], 0x403) := by decide
/-- M12, M13: the last block that fits, and the first that does not. -/
theorem test_storeBlock_bounds :
    after (exec (.storeBlock 15) ((vv 0 9 15 0x0F).setI 0xFF0)) (fun t => (t.read 0xFF0, t.read 0xFFF, t.i))
      = some (9, 0x0F, 0x1000) ∧
    after (exec (.storeBlock 15) ((vv 0 9 15 0x0F).setI 0xFF1)) (fun t => (t.mem, t.i, t.status.isRunning))
      = some ([], 0xFF1, false) := by decide
/-- M14. -/
theorem test_loadBlock :
    after (exec (.loadBlock 2) (bytesAt 0x400 [1, 2, 3, 4])) (fun t => (t.getV 0, t.getV 1, t.getV 2, t.getV 3, t.i))
      = some (1, 2, 3, 0, 0x403) := by decide
/-- M16, M15. -/
theorem test_loadBlock_bounds :
    after (exec (.loadBlock 15) ((bytesAt 0x50F [0x99]).setI 0x500)) (fun t => (t.getV 15, t.i)) = some (0x99, 0x510) ∧
    after (exec (.loadBlock 0) (State.reset.setI 0x1000)) (fun t => (t.i, t.status.isRunning)) = some (0x1000, false) := by
  decide

/-! ## Cycles, ticks and ports -/

/-- A step runs the placed word; it leaves the other host moves. -/
theorem test_step_runs :
    after (step (State.reset.withFetchWord 16 0x6A2B)) (fun t => (t.getV 10, t.pc, t.inbox)) = some (0x2B, 0x202, []) := by
  decide
/-- The host's question on a row, and on an unrecognised word. -/
theorem test_decodeTableWord :
    decodeTableWord 16 0xF265 = some (.loadBlock 2) ∧ decodeTableWord 16 0x8018 = none := by decide
/-- F2: an odd `PC`. -/
theorem test_odd_pc :
    after (cycle false ((bytesAt 0x201 [0x60, 0x7F]).setPc 0x201)) (fun t => (t.getV 0, t.pc)) = some (0x7F, 0x203) := by
  decide
/-- F3. -/
theorem test_fetch_bounds :
    after (cycle true (State.reset.setPc 0xFFF)) (fun t => (t.pc, t.status))
      = some (0xFFF, .halted { cause := .addressOutOfRange 0x1000, pc := 0xFFF, word := none }) := by decide
/-- F6: a stalled word still ticks. -/
theorem test_stall_ticks : after (cycle true (State.reset.setDt 3)) (fun t => (t.pc, t.dt)) = some (0x200, 2) := by decide
/-- F8: the policy `Fault`, with a tick requested. -/
theorem test_fault_policy :
    after (step ((State.resetWith faultingParams).setInbox [.cycle true])) (·.status)
      = some (.halted { cause := .illegalInstruction 0, pc := 0x200, word := some 0 }) := by decide
/-- F10. -/
theorem test_halted_cycle :
    after (cycle true ((haltedCore.setDt 3).setDirty true)) (fun t => (t.dt, t.dirty, t.emitted)) = some (3, true, []) := by
  decide
/-- T1: seven ticks. -/
theorem test_tick_delay :
    (tick (State.reset.setDt 5)).dt = 4 ∧ (Nat.iterate tick 7 (State.reset.setDt 5)).dt = 0 := by decide
/-- T2: the tone on the tick that reaches zero. -/
theorem test_tick_sound :
    kinds (tick (State.reset.setSt 2)).emitted = [] ∧ kinds (tick (State.reset.setSt 1)).emitted = [2] ∧
    kinds (tick State.reset).emitted = [] := by decide
/-- T4: tone before frame. -/
theorem test_tick_order :
    kinds (tick ((State.reset.setSt 1).setDirty true)).emitted = [2, 1] ∧
    (tick ((State.reset.setSt 1).setDirty true)).dirty = false := by decide
/-- T6: the write, then the tick. -/
theorem test_write_then_tick :
    after (step ((wordAt 0xF015 [.cycle true]).setV 0 4)) (·.dt) = some 3 := by decide
/-- R222: a latch bit, and an index above 15. -/
theorem test_key_ports :
    after (step (State.reset.setInbox [.keyDown 15])) (fun t => (t.keys[15], t.emitted)) = some (true, []) ∧
    after (step ((State.reset.setKey 15 true).setInbox [.keyUp 15])) (fun t => t.keys[15]) = some false ∧
    after (step (State.reset.setInbox [.keyDown 16])) (fun t => t.emitted) = some [.keyError 16] := by decide
/-- L1. -/
theorem test_load :
    after (step (State.reset.setInbox [.load (some [0x00, 0xE0, 0x12, 0x00])]))
      (fun t => (t.readBytes 0x200 5, t.pc, t.i, t.emitted))
      = some ([0x00, 0xE0, 0x12, 0x00, 0x00], 0x200, 0x200, [.loadAnswer true]) := by decide
/-- L3. -/
theorem test_load_unreadable :
    after (step (((State.reset.setPc 0x2A0).setI 0x123).setInbox [.load none])) (fun t => (t.pc, t.i, t.emitted))
      = some (0x2A0, 0x123, [.loadAnswer false]) := by decide

/-! ## Witnesses: the hypotheses of the obligations, met together, at the edges of their clauses -/

/-- Both clauses on memory, at the last font byte and the first address after it, for a font of another kind. -/
theorem wit_ConstructionLeavesTheStateOfReset :
    (State.resetWith otherParams).read (0x4F : Fin 80).val = otherParams.font[(0x4F : Fin 80)] ∧
    0x50 ≤ 0x50 ∧ (State.resetWith otherParams).read 0x50 = 0 := by decide

theorem wit_DecodeOfEncodeIsTheInstruction :
    (Instr.jp 0xFFF).wellFormed = true ∧ (Instr.drw 15 15 15).wellFormed = true := by decide

/-- Both sides of the equivalence hold for a word whose low nibble is ignored, and fail for an unrecognised one. -/
theorem wit_DecodedWordIsTheInstructionsWord :
    decodeWord 0x512F = .ok (.seReg 1 2) ∧ (0x512F#16 &&& (Instr.seReg 1 2).usedBits) = encode (.seReg 1 2) ∧
    decodeWord 0x8128 ≠ .ok (.orReg 1 2) ∧ (0x8128#16 &&& (Instr.orReg 1 2).usedBits) ≠ encode (.orReg 1 2) := by decide

/-- A word of each class with unrecognised words, and a recognised one. -/
theorem wit_UnrecognisedWordsAreThoseOfTheClassTable :
    decodeWord 0x0000 = .error (.class0 0) ∧ decodeWord 0x801F = .error (.class8 0x801F) ∧
    decodeWord 0xE09F = .error (.classE 0xE09F) ∧ decodeWord 0xF066 = .error (.classF 0xF066) ∧
    decodeWord 0x800E = .ok (.shl 0) := by decide

theorem wit_DispatchSelectsTheSingleFittingRow :
    decodeWord 0x8A5E = .ok (.shl 10) ∧ decodeWord 0x8128 = .error (.class8 0x8128) := by decide

/-- At the last `PC` a word fits at, with a pending cycle request and with none. -/
theorem wit_StepRunsTheDecodedInstruction :
    ∃ s u : State, s.pc.toNat + 1 = 0xFFF ∧ u.pc.toNat + 1 = 0xFFF ∧ s.status = .running ∧ u.status = .running ∧
      (Instr.cls).wellFormed = true ∧
      decodeWord (wordOfBytes (s.read s.pc.toNat) (s.read (s.pc.toNat + 1))) = .ok .cls ∧
      decodeWord (wordOfBytes (u.read u.pc.toNat) (u.read (u.pc.toNat + 1))) = .ok .cls ∧
      s.inbox = [.cycle true, .readStatus] ∧ u.inbox = [] :=
  ⟨((bytesAt 0xFFE [0x00, 0xE0]).setPc 0xFFE).setInbox [.cycle true, .readStatus],
    (bytesAt 0xFFE [0x00, 0xE0]).setPc 0xFFE, by decide, by decide, rfl, rfl, rfl, by decide, by decide, rfl, rfl⟩

/-- Both values of the tick input. -/
theorem wit_UnrecognisedWordStalls :
    (wordAt 0x0000 [.cycle false]).params.illegalPolicy = .stall ∧
    (wordAt 0x0000 [.cycle true]).params.illegalPolicy = .stall ∧
    (wordAt 0x0000 [.cycle false]).fetch = .ok 0 ∧ (wordAt 0x0000 [.cycle true]).fetch = .ok 0 ∧
    (wordAt 0x0000 [.cycle true]).status = .running ∧
    (wordAt 0x0000 [.cycle false]).status = .running ∧ decodeWord 0 = .error (.class0 0) ∧
    (wordAt 0x0000 [.cycle false]).inbox = [.cycle false] ∧ (wordAt 0x0000 [.cycle true]).inbox = [.cycle true] := by decide

/-- Both values of the tick input. -/
theorem wit_UnrecognisedWordFaultsUnderTheFaultPolicy :
    ∃ s u : State, s.params.illegalPolicy = .fault ∧ u.params.illegalPolicy = .fault ∧ s.status = .running ∧
      u.status = .running ∧ s.inbox = .cycle true :: [] ∧ u.inbox = .cycle false :: [] ∧ s.fetch = .ok 0 ∧
      u.fetch = .ok 0 ∧ decodeWord 0 = .error (.class0 0) :=
  ⟨(State.resetWith faultingParams).setInbox [.cycle true], (State.resetWith faultingParams).setInbox [.cycle false],
    rfl, rfl, rfl, rfl, rfl, rfl, by decide, by decide, by decide⟩

/-- The first `PC` whose second byte is not there. -/
theorem wit_FetchPastMemoryHalts :
    ∃ s : State, s.status = .running ∧ s.inbox = .cycle true :: [] ∧ 0x1000 ≤ s.pc.toNat + 1 ∧ s.pc = 0xFFF :=
  ⟨(State.reset.setPc 0xFFF).setInbox [.cycle true], rfl, rfl, by decide, rfl⟩

/-- A tick requested and the core running; no tick requested; a cycle that faults with a tick requested. -/
theorem wit_TickEndsTheCycleThatRequestsIt :
    (∃ u, executeWord 0x1200 ((wordAt 0x1200 [.cycle true]).setInbox []) = .next u ∧
      u.status = .running) ∧
    (∃ u, executeWord 0x1200 ((wordAt 0x1200 [.cycle false]).setInbox []) = .next u) ∧
    (∃ u, executeWord 0x00EE ((wordAt 0x00EE [.cycle true]).setInbox []) = .next u ∧
      u.status ≠ .running) ∧
    (wordAt 0x1200 [.cycle true]).fetch = .ok 0x1200 ∧ (wordAt 0x1200 [.cycle false]).fetch = .ok 0x1200 ∧
    (wordAt 0x00EE [.cycle true]).fetch = .ok 0x00EE ∧ (wordAt 0x00EE [.cycle true]).status = .running := by
  refine ⟨⟨_, rfl, by decide⟩, ⟨_, rfl⟩, ⟨_, rfl, by decide⟩, by decide, by decide, by decide, by decide⟩

theorem wit_HaltedCoreIgnoresCycleRequests :
    ∃ r, (haltedCore.setInbox [.cycle true]).status = .halted r ∧
      (haltedCore.setInbox [.cycle true]).inbox = .cycle true :: [] := ⟨_, rfl, rfl⟩

/-- A halted core with a load pending. -/
theorem wit_HaltedIsNeverLeft :
    ∃ r t, (haltedCore.setInbox [.load (some [0x60, 0x01])]).status = .halted r ∧
      step (haltedCore.setInbox [.load (some [0x60, 0x01])]) = .next t ∧ t.mem ≠ [] :=
  ⟨_, _, rfl, rfl, by decide⟩

/-- JP 0x200 at 0x200, with and without a tick. -/
theorem wit_SelfLoopStaysASelfLoop :
    SelfLoop (wordAt 0x1200 [.cycle false]) ∧ (wordAt 0x1200 [.cycle false]).inbox = .cycle false :: [] ∧
    SelfLoop (wordAt 0x1200 [.cycle true]) ∧ (wordAt 0x1200 [.cycle true]).inbox = .cycle true :: [] :=
  ⟨⟨rfl, 0x1200, by decide, by decide⟩, rfl, ⟨rfl, 0x1200, by decide, by decide⟩, rfl⟩

theorem wit_FaultingInstructionWritesOnlyStatus :
    ∃ t, State.reset.status = .running ∧ exec .ret State.reset = .next t ∧ t.status ≠ .running :=
  ⟨_, rfl, rfl, by decide⟩

/-- One instruction of each cause. -/
theorem wit_EachInstructionRaisesOnlyItsCause :
    (∃ t r, exec (.ldB 0) (State.reset.setI 0xFFE) = .next t ∧ t.status = .halted r ∧ r.cause.code = 1) ∧
    (∃ t r, exec (.call 0x200) (depth 256) = .next t ∧ t.status = .halted r ∧ r.cause.code = 2) ∧
    (∃ t r, exec .ret State.reset = .next t ∧ t.status = .halted r ∧ r.cause.code = 3) ∧
    (∃ t r, exec (.sknp 2) (State.reset.setV 2 16) = .next t ∧ t.status = .halted r ∧ r.cause.code = 4) :=
  ⟨⟨_, _, rfl, rfl, rfl⟩, ⟨_, _, rfl, rfl, rfl⟩, ⟨_, _, rfl, rfl, rfl⟩, ⟨_, _, rfl, rfl, rfl⟩⟩

theorem wit_InstructionsWriteOnlyTheirState :
    ∃ t, exec (.loadBlock 3) State.reset = .next t ∧ regsWritten (.loadBlock 3) 4 = false ∧
      regsWritten (.loadBlock 3) 3 = true := ⟨_, rfl, rfl, rfl⟩

theorem wit_InstructionsReadOnlyTheirRegisters :
    ∃ t, exec (.storeBlock 3) (State.reset.setI 0x300) = .next t ∧ regsRead (.storeBlock 3) 4 = false ∧
      regsRead (.storeBlock 3) 3 = true := ⟨_, rfl, rfl, rfl⟩

/-- Both ports; the last index there is and the first above it. -/
theorem wit_KeyPortsWriteOneLatchBit :
    (State.reset.setInbox [.keyDown 15]).inbox = (if true then HostMove.keyDown 15 else HostMove.keyUp 15) :: [] ∧
    (State.reset.setInbox [.keyUp 16]).inbox = (if false then HostMove.keyDown 16 else HostMove.keyUp 16) :: [] ∧
    15 ≤ 15 ∧ 15 < 16 := by decide

/-- The largest image there is. -/
theorem wit_LoadCopiesTheImage :
    ∃ s : State, MemoryCanonical s ∧ s.inbox = .load (some (List.replicate 3584 0xAA)) :: [] ∧
      (List.replicate 3584 (0xAA : Byte)).length ≤ 3584 :=
  ⟨State.reset.setInbox [.load (some (List.replicate 3584 0xAA))], rfl, rfl,
    Nat.le_of_eq List.length_replicate⟩

/-- The smallest image that is too large, and an unreadable source. -/
theorem wit_FailedLoadChangesNothing :
    (∃ s : State, s.inbox = .load (some (List.replicate 3585 0xAA)) :: [] ∧
      ∀ bytes, some (List.replicate 3585 (0xAA : Byte)) = some bytes → 3584 < bytes.length) ∧
    (∃ s : State, s.inbox = .load none :: [] ∧ ∀ bytes : List Byte, none = some bytes → 3584 < bytes.length) :=
  ⟨⟨State.reset.setInbox [.load (some (List.replicate 3585 0xAA))], rfl,
      fun bytes h => by rw [← Option.some.inj h, List.length_replicate]; omega⟩,
    ⟨State.reset.setInbox [.load none], rfl, by simp⟩⟩

theorem wit_StatusPortAnswersStatus : (haltedCore.setInbox [.readStatus]).inbox = .readStatus :: [] := rfl

/-- A step that stores to memory. -/
theorem wit_StepKeepsMemoryCanonical :
    ∃ t, MemoryCanonical ((wordAt 0xF033 [.cycle false]).setI 0x000) ∧
      step ((wordAt 0xF033 [.cycle false]).setI 0x000) = .next t :=
  ⟨_, by unfold MemoryCanonical; decide, rfl⟩

/-- A CALL, from a state with one return address in use. -/
theorem wit_StepKeepsPcInRange :
    PcInRange ((depth 1).withFetchWord 16 0x2300) ∧ ∃ t, step ((depth 1).withFetchWord 16 0x2300) = .next t ∧ t.sp = 2 := by
  refine ⟨⟨by decide, fun k w hk hw => ?_⟩, _, rfl, by decide⟩
  have h0 : k = 0 := Nat.lt_one_iff.mp hk
  subst h0
  have hw' : some 0x204 = some w := hw
  rw [← Option.some.inj hw']; decide

/-- A CALL and a RET at the two ends of the depth. -/
theorem wit_StepKeepsStackWithinDepth :
    StackWithinDepth ((depth 255).withFetchWord 16 0x2300) ∧ StackWithinDepth ((depth 256).withFetchWord 16 0x00EE) ∧
    (∃ t, step ((depth 255).withFetchWord 16 0x2300) = .next t ∧ t.sp = 256) ∧
    (∃ t, step ((depth 256).withFetchWord 16 0x00EE) = .next t ∧ t.sp = 255) := by
  refine ⟨?_, ?_, ⟨_, rfl, by decide⟩, ⟨_, rfl, by decide⟩⟩ <;> (unfold StackWithinDepth; decide)

/-- A load into a machine with another font. -/
theorem wit_StepNeverWritesTheParameters :
    ∃ t, step ((State.resetWith otherParams).setInbox [.load (some [0x60, 0x01])]) = .next t ∧ t.mem ≠ [] :=
  ⟨_, rfl, by decide⟩

/-- The highest address an encoding carries. -/
theorem wit_JumpsGoToTheirTargets : (0xFFF#16).toNat < 0x1000 := by decide

/-- The last free entry and the full stack, of the hardware and of a machine of depth 16. -/
theorem wit_CallPushesItsOwnAddress :
    (depth 255).sp.val < (depth 255).params.stackDepth.val ∧
    (depth 256).params.stackDepth.val ≤ (depth 256).sp.val ∧
    15 < (State.resetWith otherParams).params.stackDepth.val ∧
    (State.resetWith otherParams).params.stackDepth.val ≤ 16 := by decide

/-- One entry, a full stack, and an empty one. -/
theorem wit_RetGoesToTheWordAfterThePoppedAddress :
    (depth 1).sp.val = (0 : Fin 256).val + 1 ∧ (depth 256).sp.val = (255 : Fin 256).val + 1 ∧ (depth 0).sp.val = 0 := by decide

/-- The deepest CALL there is. -/
theorem wit_RetUndoesCall :
    ∃ t u : State, (depth 255).sp.val < (depth 255).params.stackDepth.val ∧
      exec (.call 0x300) (depth 255) = .next t ∧ u.sp = t.sp ∧ u.stack = t.stack :=
  ⟨_, _, by decide, rfl, rfl, rfl⟩

/-- `n = 0` at any `I`, the last sprite that fits, a pixel under it, one beside it, a collision and none. -/
theorem wit_DrwXorsTheSprite :
    ((0 : Fin 16).val = 0 ∨ (State.reset.setI 0xFFFF).i.toNat + (0 : Fin 16).val ≤ 0x1000) ∧
    ((State.reset.setI 0xFF1).i.toNat + (15 : Fin 16).val ≤ 0x1000) ∧
    (∃ r c : Nat, ∀ i j : Nat, i < (1 : Fin 16).val → j < 8 → ¬((0 + i) % 32 = r % 32 ∧ (0 + j) % 64 = c % 64)) ∧
    ((bytesAt 0x300 [0x80]).read 0x300).getMsbD 0 = true ∧ pixel (setPixel clearFb 0 0 true) 0 0 = true ∧
    pixel clearFb 0 0 = false := by
  refine ⟨by decide, by decide, ⟨1, 0, fun i j hi _ h => ?_⟩, by decide, by decide, by decide⟩
  have : i = 0 := by simpa using hi
  subst this
  exact absurd h.1 (by decide)

/-- The halting clause: one byte at 0x1000, and a sprite whose second byte is there. -/
theorem wit_DrwXorsTheSprite_halts :
    (0 < (1 : Fin 16).val ∧ 0x1000 < (State.reset.setI 0x1000).i.toNat + (1 : Fin 16).val) ∧
    (0 < (2 : Fin 16).val ∧ 0x1000 < (State.reset.setI 0xFFF).i.toNat + (2 : Fin 16).val) := by decide

theorem wit_DrawingTwiceRestoresTheFrameBuffer :
    ∃ s t u : State, exec (.drw 0 1 5) s = .next t ∧ s.i.toNat + (5 : Fin 16).val ≤ 0x1000 ∧
      u.fb = t.fb ∧ (∀ a : Nat, u.read a = s.read a) ∧ u.i = s.i ∧ u.getV 0 = s.getV 0 ∧ u.getV 1 = s.getV 1 :=
  ⟨State.reset.setI 0x300, _, (State.reset.setI 0x300).setFb ((State.reset.setI 0x300).drawSprite 0 0 5).fb, rfl,
    by decide, rfl, fun _ => rfl, rfl, rfl, rfl⟩

/-- The last key there is, and the first value above it. -/
theorem wit_KeySkipsTestTheLatch :
    ((State.reset.setV 2 15).getV 2).toNat = (15 : Fin 16).val ∧ 15 < ((State.reset.setV 2 16).getV 2).toNat := by decide

/-- Only the last key down, and no key down. -/
theorem wit_KeyWaitTakesTheLowestKey :
    ((State.reset.setKey 15 true).keys[(15 : Fin 16)] = true ∧
      ∀ j : Fin 16, j < 15 → (State.reset.setKey 15 true).keys[j] = false) ∧
    ∀ k : Fin 16, State.reset.keys[k] = false := by decide

/-- The last three bytes, and one too few. -/
theorem wit_BcdStoresThreeDigits :
    MemoryCanonical (State.reset.setI 0xFFD) ∧ (State.reset.setI 0xFFD).i.toNat + 2 < 0x1000 ∧
    MemoryCanonical (State.reset.setI 0xFFE) ∧ 0x1000 ≤ (State.reset.setI 0xFFE).i.toNat + 2 :=
  ⟨rfl, by decide, rfl, by decide⟩

/-- The last block that fits, and the first that does not. -/
theorem wit_BlockStoreWritesRegistersToMemory :
    MemoryCanonical (State.reset.setI 0xFF0) ∧ (State.reset.setI 0xFF0).i.toNat + (15 : RegIdx).val < 0x1000 ∧
    MemoryCanonical (State.reset.setI 0x1000) ∧ 0x1000 ≤ (State.reset.setI 0x1000).i.toNat + (0 : RegIdx).val :=
  ⟨rfl, by decide, rfl, by decide⟩

/-- The last byte, and the first address past it. -/
theorem wit_BlockLoadReadsRegistersFromMemory :
    (State.reset.setI 0xFFF).i.toNat + (0 : RegIdx).val < 0x1000 ∧
    0x1000 ≤ (State.reset.setI 0xFF1).i.toNat + (15 : RegIdx).val := by decide

/-- W7: a store, other registers, and `I` rewound. -/
theorem wit_BlockStoreThenLoadRestores :
    ∃ t u : State, MemoryCanonical (State.reset.setI 0x400) ∧
      (State.reset.setI 0x400).i.toNat + (3 : RegIdx).val < 0x1000 ∧
      exec (.storeBlock 3) (State.reset.setI 0x400) = .next t ∧ (∀ a : Nat, u.read a = t.read a) ∧
      u.i = (State.reset.setI 0x400).i :=
  ⟨_, (State.reset.setI 0x400).store 0x400 [0, 0, 0, 0], rfl, by decide, rfl, fun _ => rfl, rfl⟩

/-- A store over the next word. -/
theorem wit_StoreToCodeIsSeenByTheNextFetch :
    ∃ t : State, MemoryCanonical (State.reset.setI 0x202) ∧ 1 ≤ (1 : RegIdx).val ∧
      (State.reset.setI 0x202).i.toNat + (1 : RegIdx).val < 0x1000 ∧
      (State.reset.setI 0x202).i.toNat = (State.reset.setI 0x202).pc.toNat + 2 ∧
      exec (.storeBlock 1) (State.reset.setI 0x202) = .next t :=
  ⟨_, rfl, by decide, by decide, by decide, rfl⟩

end Sys2Proof.Tests
end

section
/-!
The hardware's values of the parameters (00_scope.md R11, 20_memory.md R53).
-/

namespace Sys2Proof.Scope

open Sys2Proof.Machine

/-- The bytes of `FONT` at its hardware value are the table of 20_memory.md R53, digit 0 first. -/
theorem hardwareParams_font_toList : hardwareParams.font.toList = fontBytes := rfl

/-- Settles O2: each parameter is read off `hardwareParams`. The font's bytes are those of `fontBytes`, which the
statement cuts into rows of six digits where the model cuts them into rows of four. -/
theorem hardwareHasTheParametersOfTheSpec : Obligations.HardwareHasTheParametersOfTheSpec := by
  have reset_is_hardware : State.reset = State.resetWith hardwareParams := rfl
  have policy : hardwareParams.illegalPolicy = .stall := rfl
  have depth : hardwareParams.stackDepth.val = 256 := rfl
  exact ⟨reset_is_hardware, policy, depth, hardwareParams_font_toList.trans rfl⟩

end Sys2Proof.Scope
end

section
/-!
The frame of the machine, said once (10_state.md R22 to R36): how `UnchangedBut` composes with each update, what every
instruction may write, and what a step is made of. From it follow the statements about what a step keeps.
-/

namespace Sys2Proof.Safety

open Sys2Proof.Machine

/-! ## How frames compose -/

theorem samePiece_refl (p : Piece) (s : State) : samePiece p s s := by
  cases p <;> simp [samePiece]

/-- A piece that is the same in two states is compared with a third state alike. -/
theorem samePiece_congr_right {p : Piece} {s t u : State} (h : samePiece p t u) :
    samePiece p s u ↔ samePiece p s t := by
  cases p <;> simp_all [samePiece]

theorem UnchangedBut.trans {ps : List Piece} {s t u : State} (h : UnchangedBut ps s t) (h' : UnchangedBut ps t u) :
    UnchangedBut ps s u :=
  fun p hp => (samePiece_congr_right (h' p hp)).2 (h p hp)

theorem UnchangedBut.mono {ps qs : List Piece} {s t : State} (h : UnchangedBut ps s t) (hps : ps ⊆ qs) :
    UnchangedBut qs s t :=
  fun p hp => h p fun hmem => hp (hps hmem)

@[simp] theorem unchangedBut_refl (ps : List Piece) (s : State) : UnchangedBut ps s s :=
  fun p _ => samePiece_refl p s

/-- An update of one piece that a frame leaves free does not matter to the frame. -/
theorem unchangedBut_after {q : Piece} {ps : List Piece} {s t u : State} (hq : q ∈ ps)
    (h : ∀ p, p ≠ q → samePiece p t u) : UnchangedBut ps s u ↔ UnchangedBut ps s t :=
  forall₂_congr fun p hp => samePiece_congr_right (h p fun hpq => hp (hpq ▸ hq))

section
variable {ps : List Piece} (s t : State)

@[simp] theorem unchangedBut_setV (h : .v ∈ ps) (x : RegIdx) (b : Byte) :
    UnchangedBut ps s (t.setV x b) ↔ UnchangedBut ps s t :=
  unchangedBut_after h (by rintro ⟨⟩ <;> simp [samePiece])

@[simp] theorem unchangedBut_setRegs (h : .v ∈ ps) (v : Vector Byte 16) :
    UnchangedBut ps s (t.setRegs v) ↔ UnchangedBut ps s t :=
  unchangedBut_after h (by rintro ⟨⟩ <;> simp [samePiece])

@[simp] theorem unchangedBut_setI (h : .i ∈ ps) (w : Word) :
    UnchangedBut ps s (t.setI w) ↔ UnchangedBut ps s t :=
  unchangedBut_after h (by rintro ⟨⟩ <;> simp [samePiece])

@[simp] theorem unchangedBut_setPc (h : .pc ∈ ps) (w : Word) :
    UnchangedBut ps s (t.setPc w) ↔ UnchangedBut ps s t :=
  unchangedBut_after h (by rintro ⟨⟩ <;> simp [samePiece])

@[simp] theorem unchangedBut_setStack (h : .stack ∈ ps) (e : Vector Word Config.stackCapacity)
    (q : Fin (Config.stackCapacity + 1)) : UnchangedBut ps s (t.setStack e q) ↔ UnchangedBut ps s t :=
  unchangedBut_after h (by rintro ⟨⟩ <;> simp [samePiece])

@[simp] theorem unchangedBut_setDt (h : .dt ∈ ps) (b : Byte) :
    UnchangedBut ps s (t.setDt b) ↔ UnchangedBut ps s t :=
  unchangedBut_after h (by rintro ⟨⟩ <;> simp [samePiece])

@[simp] theorem unchangedBut_setSt (h : .st ∈ ps) (b : Byte) :
    UnchangedBut ps s (t.setSt b) ↔ UnchangedBut ps s t :=
  unchangedBut_after h (by rintro ⟨⟩ <;> simp [samePiece])

@[simp] theorem unchangedBut_setKey (h : .keys ∈ ps) (k : Fin Config.numKeys) (down : Bool) :
    UnchangedBut ps s (t.setKey k down) ↔ UnchangedBut ps s t :=
  unchangedBut_after h (by rintro ⟨⟩ <;> simp [samePiece])

@[simp] theorem unchangedBut_setFb (h : .fb ∈ ps) (fb : FrameBuffer) :
    UnchangedBut ps s (t.setFb fb) ↔ UnchangedBut ps s t :=
  unchangedBut_after h (by rintro ⟨⟩ <;> simp [samePiece])

@[simp] theorem unchangedBut_setDirty (h : .dirty ∈ ps) (d : Bool) :
    UnchangedBut ps s (t.setDirty d) ↔ UnchangedBut ps s t :=
  unchangedBut_after h (by rintro ⟨⟩ <;> simp [samePiece])

@[simp] theorem unchangedBut_setStatus (h : .status ∈ ps) (q : Status) :
    UnchangedBut ps s (t.setStatus q) ↔ UnchangedBut ps s t :=
  unchangedBut_after h (by rintro ⟨⟩ <;> simp [samePiece])

@[simp] theorem unchangedBut_store (h : .mem ∈ ps) (a : Nat) (bs : List Byte) :
    UnchangedBut ps s (t.store a bs) ↔ UnchangedBut ps s t :=
  unchangedBut_after h (by rintro ⟨⟩ <;> simp [samePiece])

@[simp] theorem unchangedBut_setInbox (h : .ports ∈ ps) (ms : List HostMove) :
    UnchangedBut ps s (t.setInbox ms) ↔ UnchangedBut ps s t :=
  unchangedBut_after h (by rintro ⟨⟩ <;> simp [samePiece])

@[simp] theorem unchangedBut_emit (h : .ports ∈ ps) (e : PortEvent) :
    UnchangedBut ps s (t.emit e) ↔ UnchangedBut ps s t :=
  unchangedBut_after h (by rintro ⟨⟩ <;> simp [samePiece])

@[simp] theorem unchangedBut_countTickDraw (h : .ports ∈ ps) :
    UnchangedBut ps s t.countTickDraw ↔ UnchangedBut ps s t :=
  unchangedBut_after h (by rintro ⟨⟩ <;> simp [samePiece])

@[simp] theorem unchangedBut_countRandDraw (h : .draws ∈ ps) :
    UnchangedBut ps s t.countRandDraw ↔ UnchangedBut ps s t :=
  unchangedBut_after h (by rintro ⟨⟩ <;> simp [samePiece])

@[simp] theorem unchangedBut_advance (h : .pc ∈ ps) : UnchangedBut ps s t.advance ↔ UnchangedBut ps s t :=
  unchangedBut_setPc s t h _

@[simp] theorem unchangedBut_skip (h : .pc ∈ ps) (cond : Bool) :
    UnchangedBut ps s (t.skip cond) ↔ UnchangedBut ps s t :=
  unchangedBut_setPc s t h _

@[simp] theorem unchangedBut_setResultAndFlag (h : .v ∈ ps) (x : RegIdx) (result flag : Byte) :
    UnchangedBut ps s (t.setResultAndFlag x result flag) ↔ UnchangedBut ps s t := by
  simp [State.setResultAndFlag, h]

@[simp] theorem unchangedBut_putDrawing (hv : .v ∈ ps) (hfb : .fb ∈ ps) (hd : .dirty ∈ ps) (d : DrawState) :
    UnchangedBut ps s (t.putDrawing d) ↔ UnchangedBut ps s t := by
  simp [State.putDrawing, hv, hfb, hd]

end

/-! ## The frame of an instruction (10_state.md R22 to R32) -/

/-- `t` differs from `s` only where instruction `i` may write. -/
def WritesOnly (i : Instr) (s t : State) : Prop :=
  UnchangedBut (.v :: .pc :: .status :: piecesWritten i) s t ∧
    ∀ k : RegIdx, regsWritten i k = false → t.getV k = s.getV k

/-- A fault is in the frame of every instruction: it writes `STATUS` alone. -/
theorem writesOnly_setStatus (i : Instr) (s : State) (q : Status) : WritesOnly i s (s.setStatus q) :=
  ⟨by simp, fun _ _ => rfl⟩

/-- A checked operation stays in the frame if what is done with its value does. -/
theorem writesOnly_orRaise {α : Type} {i : Instr} {r : Except FaultCause α} {s t : State} {go : α → Result}
    (h : orRaise r s go = .next t) (hgo : ∀ a, r = .ok a → go a = .next t → WritesOnly i s t) :
    WritesOnly i s t := by
  obtain ⟨a, hr, ha⟩ | ⟨c, -, rfl⟩ := orRaise_cases h
  · exact hgo a hr ha
  · exact writesOnly_setStatus i s _

/-- The register block of LD Vx, [I] reaches no register above `x`. -/
theorem setRegsFrom_above (v : Vector Byte 16) (x k : RegIdx) (bs : List Byte)
    (hlen : bs.length = x.val + 1) (hk : ¬k ≤ x) : (setRegsFrom v 0 bs)[k] = v[k] := by
  have hout : bs.length ≤ k.val := by
    rw [Fin.le_def] at hk
    omega
  rw [getElem_setRegsFrom, if_pos (Nat.zero_le _), Nat.sub_zero, List.getElem?_eq_none hout, Option.getD_none]

/-- The frame of `exec`: first the instructions that always complete, those that write no general register and those that
write one or VF; then those that may leave everything as it is or fault. -/
theorem exec_writesOnly {i : Instr} {s t : State} (h : exec i s = .next t) : WritesOnly i s t := by
  cases i with
  | jp | jpV0 | seImm | sneImm | seReg | sneReg | ldI | addI | ldF | ldDtVx | ldStVx | cls =>
    cases h
    simp [WritesOnly, piecesWritten]
  | ldImm | addImm | ldReg | ldVxDt | rnd | orReg | andReg | xorReg | addReg | subReg | subnReg | shr | shl =>
    cases h
    constructor
    · simp [piecesWritten]
    · simp +contextual [regsWritten]
  | ldVxK x =>
    simp only [exec, execLdVxK] at h
    split at h <;> cases h
    · constructor
      · simp [piecesWritten]
      · simp +contextual [regsWritten]
    · simp [WritesOnly]
  | ret =>
    refine writesOnly_orRaise h fun a ha hgo => ?_
    obtain ⟨k, q, -, -, hpop⟩ | ⟨-, hpop⟩ := pop_cases ha
    · cases hpop
      cases hgo
      simp [WritesOnly, piecesWritten]
    · cases hpop
  | call =>
    refine writesOnly_orRaise h fun a ha hgo => ?_
    obtain ⟨_, hpush⟩ | ⟨_, hpush⟩ := push_cases ha
    · cases hpush
      cases hgo
      simp [WritesOnly, piecesWritten]
    · cases hpush
  | skp | sknp | ldB | storeBlock =>
    refine writesOnly_orRaise h fun a _ hgo => ?_
    cases hgo
    simp [WritesOnly, piecesWritten]
  | drw =>
    refine writesOnly_orRaise h fun _ _ hgo => ?_
    cases hgo
    constructor
    · simp [piecesWritten]
    · simp +contextual [regsWritten]
  | loadBlock x =>
    refine writesOnly_orRaise h fun _ _ hgo => ?_
    cases hgo
    constructor
    · simp [piecesWritten]
    · intro k hk
      have hkx : ¬k ≤ x := of_decide_eq_false hk
      exact setRegsFrom_above s.v x k _ (length_readBytes s _ _) hkx

/-- Settles O20: the frame of `exec`, split by instruction in `exec_writesOnly`. -/
theorem instructionsWriteOnlyTheirState : Obligations.InstructionsWriteOnlyTheirState :=
  fun _ _ _ h => exec_writesOnly h

/-- Nothing writes the parameters (10_state.md R36). -/
theorem params_not_mem_piecesWritten (i : Instr) : Piece.params ∉ piecesWritten i := by
  cases i <;> simp [piecesWritten]

theorem exec_params {i : Instr} {s t : State} (h : exec i s = .next t) : t.params = s.params :=
  (exec_writesOnly h).1 .params (by simp [params_not_mem_piecesWritten])

/-- Only CALL and RET write the stack (10_state.md R26). -/
theorem stack_mem_piecesWritten {i : Instr} (h : Piece.stack ∈ piecesWritten i) :
    i = .ret ∨ ∃ nnn, i = .call nnn := by
  cases i <;> simp_all [piecesWritten]

/-! ## What a step is made of -/

theorem tick_unchangedBut (s : State) : UnchangedBut [.dt, .st, .dirty, .ports] s (tick s) := by
  rintro ⟨⟩ hp <;> simp_all [samePiece]

theorem keyEvent_unchangedBut (k : Nat) (down : Bool) (s : State) :
    UnchangedBut [.keys, .ports] s (keyEvent k down s) := by
  unfold keyEvent
  split <;> simp

theorem loadImage_unchangedBut (image : Option (List Byte)) (s : State) :
    UnchangedBut [.mem, .pc, .i, .ports] s (loadImage image s) := by
  unfold loadImage
  split
  · simp
  · split <;> simp [putImage]

theorem readStatus_unchangedBut (s : State) : UnchangedBut [.ports] s (readStatus s) := by
  simp [readStatus]

/-- What a step may write where no instruction executes: a tick after an unrecognised word, a fault, or a host move
other than a cycle request. -/
def piecesWrittenOutside : List Piece := [.mem, .pc, .i, .dt, .st, .keys, .dirty, .status, .ports]

/-- Everything a cycle can do to the pieces of state: it executes one instruction, which a tick may follow, or it
executes none. -/
theorem cycle_frame_cases {s t : State} {ticks : Bool} (h : cycle ticks s = .next t) :
    UnchangedBut piecesWrittenOutside s t ∨
      ∃ i u, exec i s = .next u ∧ UnchangedBut [.dt, .st, .dirty, .ports] u t := by
  obtain ⟨r, -, rfl⟩ | ⟨c, -, -, rfl⟩ | ⟨w, u, -, -, hu, hend⟩ := cycle_cases h
  · exact .inl (unchangedBut_refl _ _)
  · exact .inl (by simp [piecesWrittenOutside])
  · have htick : UnchangedBut [.dt, .st, .dirty, .ports] u t := by
      obtain ⟨-, -, rfl⟩ | ⟨-, rfl⟩ := hend
      · exact tick_unchangedBut u
      · exact unchangedBut_refl _ _
    obtain ⟨i, -, hexec⟩ | ⟨e, -, hpolicy⟩ := executeWord_cases hu
    · exact .inr ⟨i, u, hexec, htick⟩
    · have hword : UnchangedBut piecesWrittenOutside s u := by
        obtain ⟨-, rfl⟩ | ⟨-, rfl⟩ := hpolicy <;> simp [piecesWrittenOutside]
      exact .inl (hword.trans (htick.mono (by simp [piecesWrittenOutside])))

/-- Everything a step can do to the pieces of state: it executes one instruction, between taking the host's move and a
tick, or it executes none. -/
theorem step_frame_cases {s t : State} (h : step s = .next t) :
    UnchangedBut piecesWrittenOutside s t ∨
      ∃ i s' u, UnchangedBut [.ports] s s' ∧ exec i s' = .next u ∧ UnchangedBut [.dt, .st, .dirty, .ports] u t := by
  have hinbox (rest) : UnchangedBut piecesWrittenOutside s (s.setInbox rest) := by simp [piecesWrittenOutside]
  obtain ⟨ticks, s', hc, hs'⟩ | ⟨rest, k, down, rfl⟩ | ⟨rest, image, rfl⟩ | ⟨rest, rfl⟩ := step_cases h
  · have htaken : UnchangedBut [.ports] s s' := by
      obtain ⟨rest, -, rfl⟩ | ⟨-, rfl⟩ := hs' <;> simp
    obtain hout | ⟨i, u, hexec, htick⟩ := cycle_frame_cases hc
    · exact .inl ((htaken.mono (by simp [piecesWrittenOutside])).trans hout)
    · exact .inr ⟨i, s', u, htaken, hexec, htick⟩
  · exact .inl ((hinbox rest).trans ((keyEvent_unchangedBut _ _ _).mono (by simp [piecesWrittenOutside])))
  · exact .inl ((hinbox rest).trans ((loadImage_unchangedBut _ _).mono (by simp [piecesWrittenOutside])))
  · exact .inl ((hinbox rest).trans ((readStatus_unchangedBut _).mono (by simp [piecesWrittenOutside])))

/-- Neither an instruction nor anything else in a step writes the parameters (10_state.md R36). -/
theorem step_params {s t : State} (h : step s = .next t) : t.params = s.params := by
  obtain hout | ⟨i, s', u, htaken, hexec, htick⟩ := step_frame_cases h
  · exact hout .params (by decide)
  · calc t.params = u.params := htick .params (by decide)
      _ = s'.params := exec_params hexec
      _ = s.params := htaken .params (by decide)

/-- Settles O31: `step_params`, since every step is in a frame that leaves the parameters alone. -/
theorem stepNeverWritesTheParameters : Obligations.StepNeverWritesTheParameters :=
  fun _ _ h => step_params h

/-! ## The stack's bound (10_state.md R25, R26) -/

theorem StackWithinDepth.congr {ps : List Piece} {s t : State} (hs : StackWithinDepth s) (h : UnchangedBut ps s t)
    (hparams : .params ∉ ps) (hstack : .stack ∉ ps) : StackWithinDepth t := by
  have hsp : t.sp = s.sp := (h .stack hstack).1
  have hp : t.params = s.params := h .params hparams
  rwa [StackWithinDepth, hsp, hp]

/-- A push below the depth stays within it, and a pop goes down. -/
theorem exec_stackWithinDepth {i : Instr} {s t : State} (hs : StackWithinDepth s) (h : exec i s = .next t) :
    StackWithinDepth t := by
  by_cases hi : .stack ∈ piecesWritten i
  · obtain rfl | ⟨nnn, rfl⟩ := stack_mem_piecesWritten hi
    · obtain ⟨a, ha, hgo⟩ | ⟨c, -, rfl⟩ := orRaise_cases h
      · obtain ⟨k, q, hk, hq, hpop⟩ | ⟨-, hpop⟩ := pop_cases ha
        · cases hpop
          cases hgo
          simp only [StackWithinDepth, setPc_sp, setPc_params, setStack_sp, setStack_params] at hs ⊢
          omega
        · cases hpop
      · exact hs
    · obtain ⟨a, ha, hgo⟩ | ⟨c, -, rfl⟩ := orRaise_cases h
      · obtain ⟨hlt, hpush⟩ | ⟨_, hpush⟩ := push_cases ha
        · cases hpush
          cases hgo
          exact hlt
        · cases hpush
      · exact hs
  · exact hs.congr (exec_writesOnly h).1 (by simp [params_not_mem_piecesWritten]) (by simp [hi])

/-- Settles O30: an instruction keeps the bound, and nothing else of a step touches `SP` or the depth. -/
theorem stepKeepsStackWithinDepth : Obligations.StepKeepsStackWithinDepth := by
  intro s t hs h
  obtain hout | ⟨i, s', u, htaken, hexec, htick⟩ := step_frame_cases h
  · exact hs.congr hout (by decide) (by decide)
  · have hs' : StackWithinDepth s' := hs.congr htaken (by decide) (by decide)
    have hu : StackWithinDepth u := exec_stackWithinDepth hs' hexec
    exact hu.congr htick (by decide) (by decide)

end Sys2Proof.Safety
end

section
/-!
Noninterference between registers (10_state.md R22): an instruction is run twice, the second time with one register
changed that it does not read, and the two runs end in states that differ in that register alone.
-/

namespace Sys2Proof.Safety

open Sys2Proof.Machine

/-! ## A changed register and one update -/

section
variable (s : State) (k : RegIdx) (b : Byte)

/-- Changing a register outside the read set changes no register the instruction reads. -/
theorem getV_setV_of_regsRead {i : Instr} (hk : regsRead i k = false) {x : RegIdx} (hx : regsRead i x = true) :
    (s.setV k b).getV x = s.getV x := by
  have hxk : x ≠ k := fun h => by simp [h, hk] at hx
  rw [getV_setV, if_neg hxk]

/-- States that differ in register `k` only still do after the same write to any register, which may be `k`. -/
theorem exists_setV_setV (x : RegIdx) (a : Byte) : ∃ c, (s.setV k b).setV x a = (s.setV x a).setV k c := by
  by_cases hx : x = k
  · exact ⟨a, by simp [State.setV, hx]⟩
  · have hval : k.val ≠ x.val := fun h => hx (Fin.ext h.symm)
    exact ⟨b, by simp [State.setV, Vector.set_comm _ _ hval]⟩

/-- Registers that differ in `k` only still do after the same block is put into both, whether it reaches `k` or not. -/
theorem exists_setRegsFrom_set (v : Vector Byte 16) (bs : List Byte) :
    ∃ c, setRegsFrom (v.set k b) 0 bs = (setRegsFrom v 0 bs).set k c := by
  refine ⟨(setRegsFrom (v.set k b) 0 bs)[k], Vector.ext fun j hj => ?_⟩
  have hl := getElem_setRegsFrom (v.set k b) bs 0 ⟨j, hj⟩
  have hr := getElem_setRegsFrom v bs 0 ⟨j, hj⟩
  simp only [Fin.getElem_fin] at hl hr ⊢
  by_cases hkj : k.val = j
  · subst hkj
    rw [Vector.getElem_set_self]
  · rw [Vector.getElem_set_ne _ _ hkj] at hl ⊢
    rw [hl, hr]

/-- The registers up to `x` are as before where a register above `x` changes. -/
theorem regsUpTo_setV {x : RegIdx} (h : ¬k ≤ x) : (s.setV k b).regsUpTo x = s.regsUpTo x := by
  have hlt : x.val + 1 ≤ k.val := by
    rw [Fin.le_def] at h
    omega
  simp [State.regsUpTo, Vector.toList_set, List.take_set_of_le hlt]

theorem push_setV (w : Word) : (s.setV k b).push w = (s.push w).map (fun u => u.setV k b) := by
  by_cases h : s.sp.val < s.params.stackDepth.val
  · rw [push_ok w h, push_ok (s := s.setV k b) w h]
    rfl
  · rw [push_full w h, push_full (s := s.setV k b) w h]
    rfl

theorem pop_setV : (s.setV k b).pop = s.pop.map (fun p => (p.1, p.2.setV k b)) := by
  by_cases h : 0 < s.sp.val
  · rw [State.pop, dif_pos (show 0 < (s.setV k b).sp.val from h), State.pop, dif_pos h]
    rfl
  · rw [State.pop, dif_neg (show ¬0 < (s.setV k b).sp.val from h), State.pop, dif_neg h]
    rfl

/-! ## A changed register and the end of an instruction -/

theorem exists_next_setV (x : RegIdx) (a : Byte) :
    ∃ c, (.next ((s.setV k b).setV x a).advance : Result) = .next ((s.setV x a).advance.setV k c) := by
  obtain ⟨c, hc⟩ := exists_setV_setV s k b x a
  exact ⟨c, by rw [hc]; rfl⟩

theorem exists_next_setResultAndFlag (x : RegIdx) (result flag : Byte) :
    ∃ c, (.next ((s.setV k b).setResultAndFlag x result flag).advance : Result) =
      .next ((s.setResultAndFlag x result flag).advance.setV k c) := by
  obtain ⟨c, hc⟩ := exists_setV_setV s k b x result
  obtain ⟨d, hd⟩ := exists_setV_setV (s.setV x result) k c vf flag
  exact ⟨d, by rw [State.setResultAndFlag, hc, hd]; rfl⟩

theorem exists_next_putDrawing (d : DrawState) :
    ∃ c, (.next ((s.setV k b).putDrawing d).advance : Result) = .next ((s.putDrawing d).advance.setV k c) :=
  exists_next_setV ((s.setFb d.fb).setDirty (s.dirty || d.changed)) k b vf (flagByte d.collided)

end

/-- A checked operation that answers the same up to `f` in both runs: its fault keeps the change of register `k`, and
with its value both runs go on. -/
theorem orRaise_setV {α β : Type} {r : Except FaultCause α} {r' : Except FaultCause β} {s t : State}
    {go : α → Result} {go' : β → Result} {k : RegIdx} {b : Byte} (h : orRaise r s go = .next t) (f : α → β)
    (hr : r' = r.map f) (hgo : ∀ a, go a = .next t → ∃ c, go' (f a) = .next (t.setV k c)) :
    ∃ c, orRaise r' (s.setV k b) go' = .next (t.setV k c) := by
  obtain ⟨a, rfl, ha⟩ | ⟨c, rfl, rfl⟩ := orRaise_cases h
  · rw [hr]
    exact hgo a ha
  · rw [hr]
    exact ⟨b, rfl⟩

/-- The two runs of one instruction: the second starts with another byte in a register it does not read, and ends in the
first one's outcome with some byte in that register. -/
theorem exec_setV {i : Instr} {s t : State} {k : RegIdx} (b : Byte) (hk : regsRead i k = false)
    (h : exec i s = .next t) : ∃ c, exec i (s.setV k b) = .next (t.setV k c) := by
  have hread {x : RegIdx} (hx : regsRead i x = true) : (s.setV k b).getV x = s.getV x :=
    getV_setV_of_regsRead s k b hk hx
  cases i with
  | cls | jp | ldI =>
    cases h
    exact ⟨b, rfl⟩
  | seImm | sneImm | seReg | sneReg | jpV0 | ldDtVx | ldStVx | addI | ldF =>
    cases h
    refine ⟨b, ?_⟩
    simp only [exec, execSeImm, execSneImm, execSeReg, execSneReg, execJpV0, execLdDtVx, execLdStVx, execAddI, execLdF,
      hread, regsRead, beq_self_eq_true, Bool.or_true, Bool.true_or]
    rfl
  | ldImm x | addImm x | ldReg x | ldVxDt x =>
    cases h
    simp only [exec, execLdImm, execAddImm, execLdReg, execLdVxDt, hread, regsRead, beq_self_eq_true]
    exact exists_next_setV s k b x _
  | rnd x =>
    cases h
    exact exists_next_setV s.countRandDraw k b x _
  | orReg x | andReg x | xorReg x | addReg x | subReg x | subnReg x | shr x | shl x =>
    cases h
    simp only [exec, execOr, execAnd, execXor, execAddReg, execSub, execSubn, execShr, execShl, hread, regsRead,
      beq_self_eq_true, Bool.or_true, Bool.true_or]
    exact exists_next_setResultAndFlag s k b x _ _
  | ldVxK x =>
    have hscan : (s.setV k b).lowestKey = s.lowestKey := rfl
    simp only [exec, execLdVxK, hscan] at h ⊢
    split at h <;> cases h
    · exact exists_next_setV s k b x _
    · exact ⟨b, rfl⟩
  | ret =>
    exact orRaise_setV h _ (pop_setV s k b) fun a ha => by cases ha; exact ⟨b, rfl⟩
  | call =>
    exact orRaise_setV h _ (push_setV s k b s.pc) fun a ha => by cases ha; exact ⟨b, rfl⟩
  | skp x | sknp x =>
    have hkey : (s.setV k b).keyAt ((s.setV k b).getV x) = s.keyAt (s.getV x) := by
      rw [hread (by simp [regsRead])]
      rfl
    exact orRaise_setV h id (by rw [hkey, Except.map_id, id]) fun a ha => by cases ha; exact ⟨b, rfl⟩
  | ldB x =>
    refine orRaise_setV h id (by rw [Except.map_id]; rfl) fun a ha => ?_
    cases ha
    rw [hread (by simp [regsRead])]
    exact ⟨b, rfl⟩
  | storeBlock x =>
    refine orRaise_setV h id (by rw [Except.map_id]; rfl) fun a ha => ?_
    cases ha
    rw [regsUpTo_setV s k b (of_decide_eq_false hk)]
    exact ⟨b, rfl⟩
  | loadBlock x =>
    refine orRaise_setV h id (by rw [Except.map_id]; rfl) fun a ha => ?_
    cases ha
    obtain ⟨c, hc⟩ := exists_setRegsFrom_set k b s.v (s.readBytes s.i.toNat (x.val + 1))
    exact ⟨c, congrArg (fun v => (.next ((s.setRegs v).setI (s.pastBlock x)).advance : Result)) hc⟩
  | drw x y =>
    refine orRaise_setV h id (by rw [Except.map_id]; rfl) fun a ha => ?_
    cases ha
    rw [hread (x := x) (by simp [regsRead]), hread (x := y) (by simp [regsRead])]
    exact exists_next_putDrawing s k b _

/-- Settles O21: a state with one register replaced agrees with the original on everything else. -/
theorem instructionsReadOnlyTheirRegisters : Obligations.InstructionsReadOnlyTheirRegisters := by
  intro i s t k b hk h
  obtain ⟨c, hc⟩ := exec_setV b hk h
  refine ⟨t.setV k c, hc, fun p hp => ?_, fun j hj => ?_⟩
  · have hframe : UnchangedBut [.v] t (t.setV k c) := by simp
    exact hframe p (by simpa using hp)
  · rw [getV_setV, if_neg hj]

end Sys2Proof.Safety
end

section
/-!
The state of construction (10_state.md R37).
-/

namespace Sys2Proof.Safety

open Sys2Proof.Machine

/-! ## Reset contents -/

/-- Right after construction memory lists no byte, so every address reads as its reset contents. -/
theorem read_resetWith (p : Params) (a : Nat) : (State.resetWith p).read a = memInit p.font a := rfl

theorem memInit_font (f : Font) (a : Fin 80) : memInit f a.val = f[a] := dif_pos a.isLt

theorem memInit_zero (f : Font) {a : Nat} (h : 0x50 ≤ a) : memInit f a = 0 := dif_neg (Nat.not_lt.2 h)

/-- Settles O1: memory by its reset contents, the arrays entry by entry, every other field as written. -/
theorem constructionLeavesTheStateOfReset : Obligations.ConstructionLeavesTheStateOfReset := by
  intro p
  have hfont (a : Fin 80) : (State.resetWith p).read a.val = p.font[a] := memInit_font p.font a
  have hzero (a : Nat) (h : 0x50 ≤ a) : (State.resetWith p).read a = 0 := memInit_zero p.font h
  have hregs (k : RegIdx) : (State.resetWith p).getV k = 0 := Vector.getElem_replicate _
  have hstack (k : Fin 256) : (State.resetWith p).stack[k] = 0 := Vector.getElem_replicate _
  have hkeys (k : Fin 16) : (State.resetWith p).keys[k] = false := Vector.getElem_replicate _
  exact ⟨hfont, hzero, rfl, rfl, hregs, rfl, hstack, rfl, rfl, hkeys, pixel_clearFb, rfl, rfl, rfl⟩

end Sys2Proof.Safety
end

section
/-!
What a step does to memory (20_memory.md R50, R58, R66): at most one block is stored, inside the address space.
-/

namespace Sys2Proof.Safety

open Sys2Proof.Machine

/-! ## At most one block is stored -/

/-- The memory of `t` is that of `s` after one block was stored inside the address space; the empty block leaves memory
as it is. -/
def StoresOneBlock (s t : State) : Prop :=
  ∃ (a : Nat) (bs : List Byte), a + bs.length ≤ Config.memSize ∧ t.mem = (s.store a bs).mem

theorem storesOneBlock_of_mem_eq {s t : State} (h : t.mem = s.mem) : StoresOneBlock s t :=
  ⟨0, [], Nat.zero_le _, h⟩

/-- Storing a block inside the address space keeps the canonical form. -/
theorem StoresOneBlock.memoryCanonical {s t : State} (h : StoresOneBlock s t) (hp : t.params = s.params)
    (hs : MemoryCanonical s) : MemoryCanonical t := by
  obtain ⟨a, bs, hfit, hmem⟩ := h
  rw [MemoryCanonical, hp, hmem]
  exact wf_store hfit hs

/-- A checked operation stores at most one block if what is done with its value does. -/
theorem storesOneBlock_orRaise {α : Type} {r : Except FaultCause α} {s t : State} {go : α → Result}
    (h : orRaise r s go = .next t) (hgo : ∀ a, r = .ok a → go a = .next t → StoresOneBlock s t) :
    StoresOneBlock s t := by
  obtain ⟨a, hr, ha⟩ | ⟨c, -, rfl⟩ := orRaise_cases h
  · exact hgo a hr ha
  · exact storesOneBlock_of_mem_eq rfl

/-- A block that passed the check ends inside the address space (20_memory.md R58). -/
theorem le_memSize_of_checkBlock {a len : Nat} {u : Unit} (hlen : 0 < len) (h : checkBlock a len = .ok u) :
    a + len ≤ Config.memSize := by
  obtain ⟨hfit, -⟩ | ⟨-, herr⟩ := checkBlock_cases a len
  · omega
  · cases herr.symm.trans h

theorem length_decimalDigits (b : Byte) : (decimalDigits b).length = 3 := rfl

/-- LD B and LD [I] store the block they checked; no other instruction touches memory. -/
theorem exec_storesOneBlock {i : Instr} {s t : State} (h : exec i s = .next t) : StoresOneBlock s t := by
  cases i with
  | cls | jp | jpV0 | seImm | sneImm | seReg | sneReg | ldImm | addImm | ldReg | orReg | andReg | xorReg | addReg
  | subReg | subnReg | shr | shl | rnd | ldI | addI | ldF | ldVxDt | ldDtVx | ldStVx =>
    cases h
    exact storesOneBlock_of_mem_eq rfl
  | ldVxK =>
    simp only [exec, execLdVxK] at h
    split at h <;> cases h <;> exact storesOneBlock_of_mem_eq rfl
  | skp | sknp | drw | loadBlock =>
    refine storesOneBlock_orRaise h fun _ _ hgo => ?_
    cases hgo
    exact storesOneBlock_of_mem_eq rfl
  | ret =>
    refine storesOneBlock_orRaise h fun a ha hgo => ?_
    obtain ⟨k, q, -, -, hpop⟩ | ⟨-, hpop⟩ := pop_cases ha
    · cases hpop
      cases hgo
      exact storesOneBlock_of_mem_eq rfl
    · cases hpop
  | call =>
    refine storesOneBlock_orRaise h fun a ha hgo => ?_
    obtain ⟨_, hpush⟩ | ⟨_, hpush⟩ := push_cases ha
    · cases hpush
      cases hgo
      exact storesOneBlock_of_mem_eq rfl
    · cases hpush
  | ldB x =>
    refine storesOneBlock_orRaise h fun _ hcheck hgo => ?_
    cases hgo
    have hfit : s.i.toNat + 3 ≤ Config.memSize := le_memSize_of_checkBlock (by decide) hcheck
    exact ⟨s.i.toNat, decimalDigits (s.getV x), by rwa [length_decimalDigits], rfl⟩
  | storeBlock x =>
    refine storesOneBlock_orRaise h fun _ hcheck hgo => ?_
    cases hgo
    have hfit : s.i.toNat + (x.val + 1) ≤ Config.memSize := le_memSize_of_checkBlock (Nat.succ_pos _) hcheck
    exact ⟨s.i.toNat, s.regsUpTo x, by rwa [length_regsUpTo], rfl⟩

/-! ## The canonical form is kept -/

theorem executeWord_storesOneBlock {w : Word} {s t : State} (h : executeWord w s = .next t) : StoresOneBlock s t := by
  obtain ⟨i, -, hexec⟩ | ⟨e, -, ⟨-, rfl⟩ | ⟨-, rfl⟩⟩ := executeWord_cases h
  · exact exec_storesOneBlock hexec
  · exact storesOneBlock_of_mem_eq rfl
  · exact storesOneBlock_of_mem_eq rfl

theorem cycle_storesOneBlock {s t : State} {ticks : Bool} (h : cycle ticks s = .next t) : StoresOneBlock s t := by
  obtain ⟨r, -, rfl⟩ | ⟨c, -, -, rfl⟩ | ⟨w, u, -, -, hu, hend⟩ := cycle_cases h
  · exact storesOneBlock_of_mem_eq rfl
  · exact storesOneBlock_of_mem_eq rfl
  · obtain ⟨a, bs, hfit, hmem⟩ := executeWord_storesOneBlock hu
    have htick : t.mem = u.mem := by
      obtain ⟨-, -, rfl⟩ | ⟨-, rfl⟩ := hend
      · exact tick_mem u
      · rfl
    exact ⟨a, bs, hfit, htick.trans hmem⟩

/-- A key port touches no memory. -/
theorem keyEvent_mem (k : Nat) (down : Bool) (s : State) : (keyEvent k down s).mem = s.mem := by
  unfold keyEvent
  split <;> rfl

/-- A load stores its image, or nothing: an image of up to `MAX_IMAGE` bytes ends inside the address space. -/
theorem loadImage_storesOneBlock (image : Option (List Byte)) (s : State) : StoresOneBlock s (loadImage image s) := by
  cases image with
  | none => exact storesOneBlock_of_mem_eq rfl
  | some bytes =>
    by_cases hlen : bytes.length ≤ Config.maxImage
    · have hfit : Config.progBase + bytes.length ≤ Config.memSize := Nat.add_le_add_left hlen Config.progBase
      refine ⟨Config.progBase, bytes, hfit, ?_⟩
      rw [loadImage, if_pos hlen]
      rfl
    · refine storesOneBlock_of_mem_eq ?_
      rw [loadImage, if_neg hlen]
      rfl

/-- Taking the host's move leaves memory alone, so what the move stores is what the step stores. -/
theorem step_storesOneBlock {s t : State} (h : step s = .next t) : StoresOneBlock s t := by
  obtain ⟨ticks, s', hc, hs'⟩ | ⟨rest, k, down, rfl⟩ | ⟨rest, image, rfl⟩ | ⟨rest, rfl⟩ := step_cases h
  · have hcycle : StoresOneBlock s' t := cycle_storesOneBlock hc
    obtain ⟨rest, -, rfl⟩ | ⟨-, rfl⟩ := hs' <;> exact hcycle
  · exact storesOneBlock_of_mem_eq (keyEvent_mem k down _)
  · exact loadImage_storesOneBlock image (s.setInbox rest)
  · exact storesOneBlock_of_mem_eq rfl

/-- Settles O28: a step stores at most one block, inside the address space, and keeps the parameters. -/
theorem stepKeepsMemoryCanonical : Obligations.StepKeepsMemoryCanonical :=
  fun _ _ hs h => (step_storesOneBlock h).memoryCanonical (step_params h) hs

/-! ## A stored block is what is read next (20_memory.md R66) -/

/-- A canonical memory reads back the bytes of a block stored in it. -/
theorem read_store_of_getElem? {s : State} (hs : MemoryCanonical s) {a k : Nat} {bs : List Byte} {b : Byte}
    (hfit : a + bs.length ≤ Config.memSize) (hk : bs[k]? = some b) : (s.store a bs).read (a + k) = b := by
  rw [read_store hs hfit, if_pos (Nat.le_add_right a k), Nat.add_sub_cancel_left, hk, Option.getD_some]

/-- LD [I], Vx with a block inside the address space does not halt. -/
theorem exec_storeBlock_of_fits {x : RegIdx} {s : State} (hfit : s.i.toNat + (x.val + 1) ≤ Config.memSize) :
    exec (.storeBlock x) s = .next ((s.store s.i.toNat (s.regsUpTo x)).setI (s.pastBlock x)).advance := by
  rw [exec, execStoreBlock, checkBlock_ok (.inr hfit), orRaise_ok]

/-- After LD [I], Vx each register up to `x` stands in memory, at `I` plus its number (45_index_memory.md R194). -/
theorem read_of_exec_storeBlock {x k : RegIdx} {s t : State} (hs : MemoryCanonical s)
    (hfit : s.i.toNat + (x.val + 1) ≤ Config.memSize) (hk : k ≤ x) (h : exec (.storeBlock x) s = .next t) :
    t.read (s.i.toNat + k.val) = s.getV k := by
  rw [exec_storeBlock_of_fits hfit] at h
  cases h
  exact read_store_of_getElem? hs (by rwa [length_regsUpTo]) (getElem?_regsUpTo s x k hk)

/-- Settles O55: `PC` advances to `I`, where `V[0]` and `V[1]` now stand. -/
theorem storeToCodeIsSeenByTheNextFetch : Obligations.StoreToCodeIsSeenByTheNextFetch := by
  intro x s t hs hx hend hi h
  have hfit : s.i.toNat + (x.val + 1) ≤ Config.memSize := hend
  have hpc : t.pc.toNat = s.i.toNat := by
    rw [exec_storeBlock_of_fits hfit] at h
    cases h
    simp only [advance_pc, setI_pc, store_pc, toNat_trunc16]
    omega
  have hread (k : RegIdx) (hk : k ≤ x) : t.read (s.i.toNat + k.val) = s.getV k :=
    read_of_exec_storeBlock hs hfit hk h
  have h0 : t.read s.i.toNat = s.getV 0 := hread 0 (Fin.zero_le x)
  have h1 : t.read (s.i.toNat + 1) = s.getV 1 := hread 1 (Fin.le_def.2 hx)
  rw [fetch_ok (by omega), hpc, h0, h1]

end Sys2Proof.Safety
end

section
/-!
The decoder and the encoder against the opcode map (30_encoding.md R81 to R87). A word decodes to `i` exactly when it
matches `i`'s row and `i`'s operands are the word's fields; the statements about decoding follow from that.
-/

namespace Sys2Proof.Encoding

/-! ## Masked words and their fields -/

theorem and_FFFF (w : Word) : w &&& 0xFFFF#16 = w :=
  BitVec.eq_of_toNat_eq (toNat_and_FFFF w)

/-- The fields that stay under each mask of the opcode map. -/
theorem fields_and_F000 (w : Word) : classOf (w &&& 0xF000#16) = classOf w := by
  apply BitVec.eq_of_toNat_eq
  rw [toNat_classOf, toNat_classOf, toNat_and_F000]
  omega

theorem fields_and_F00F (w : Word) : classOf (w &&& 0xF00F#16) = classOf w ∧ nOf (w &&& 0xF00F#16) = nOf w := by
  refine ⟨BitVec.eq_of_toNat_eq ?_, Fin.ext ?_⟩
  · rw [toNat_classOf, toNat_classOf, toNat_and_F00F]; omega
  · rw [val_nOf, val_nOf, toNat_and_F00F]; omega

theorem fields_and_F0FF (w : Word) : classOf (w &&& 0xF0FF#16) = classOf w ∧ kkOf (w &&& 0xF0FF#16) = kkOf w := by
  refine ⟨BitVec.eq_of_toNat_eq ?_, BitVec.eq_of_toNat_eq ?_⟩
  · rw [toNat_classOf, toNat_classOf, toNat_and_F0FF]; omega
  · rw [toNat_kkOf, toNat_kkOf, toNat_and_F0FF]; omega

/-- The register fields that stay when a nibble R86 ignores is cleared. -/
theorem fields_and_FFF0 (w : Word) : xOf (w &&& 0xFFF0#16) = xOf w ∧ yOf (w &&& 0xFFF0#16) = yOf w := by
  refine ⟨Fin.ext ?_, Fin.ext ?_⟩
  · rw [val_xOf, val_xOf, toNat_and_FFF0]; omega
  · rw [val_yOf, val_yOf, toNat_and_FFF0]; omega

theorem xOf_and_FF0F (w : Word) : xOf (w &&& 0xFF0F#16) = xOf w := by
  apply Fin.ext
  rw [val_xOf, val_xOf, toNat_and_FF0F]
  omega

/-! ## A masked word is known by its fields -/

section
variable {w : Word} {c : Nat}

theorem and_F000_of_fields (hc : (classOf w).toNat = c) : w &&& 0xF000#16 = BitVec.ofNat 16 (c * 0x1000) := by
  rw [toNat_classOf] at hc
  apply BitVec.eq_of_toNat_eq
  rw [toNat_and_F000, BitVec.toNat_ofNat]
  omega

theorem and_F00F_of_fields {n : Nat} (hc : (classOf w).toNat = c) (hn : (nOf w).val = n) :
    w &&& 0xF00F#16 = BitVec.ofNat 16 (c * 0x1000 + n) := by
  rw [toNat_classOf] at hc
  rw [val_nOf] at hn
  apply BitVec.eq_of_toNat_eq
  rw [toNat_and_F00F, BitVec.toNat_ofNat]
  omega

theorem and_F0FF_of_fields {kk : Nat} (hc : (classOf w).toNat = c) (hk : (kkOf w).toNat = kk) :
    w &&& 0xF0FF#16 = BitVec.ofNat 16 (c * 0x1000 + kk) := by
  rw [toNat_classOf] at hc
  rw [toNat_kkOf] at hk
  apply BitVec.eq_of_toNat_eq
  rw [toNat_and_F0FF, BitVec.toNat_ofNat]
  omega

end

/-! ## The encoder's shapes, filled from a word's fields -/

theorem wordCNnn_fields (w : Word) : wordCNnn (classOf w).toNat (nnnOf w) = w := by
  apply BitVec.eq_of_toNat_eq
  rw [toNat_wordCNnn (classOf w).isLt, toNat_classOf, toNat_nnnOf]
  omega

theorem wordCXkk_fields (w : Word) : wordCXkk (classOf w).toNat (xOf w) (kkOf w) = w := by
  apply BitVec.eq_of_toNat_eq
  rw [toNat_wordCXkk (classOf w).isLt, toNat_classOf, val_xOf, toNat_kkOf]
  omega

theorem wordCXyn_fields (w : Word) : wordCXyn (classOf w).toNat (xOf w) (yOf w) (nOf w) = w := by
  apply BitVec.eq_of_toNat_eq
  rw [toNat_wordCXyn (classOf w).isLt, toNat_classOf, val_xOf, val_yOf, val_nOf]
  omega

/-- Without its lowest nibble. -/
theorem wordCXyn_fields_n0 (w : Word) : wordCXyn (classOf w).toNat (xOf w) (yOf w) 0 = w &&& 0xFFF0#16 := by
  apply BitVec.eq_of_toNat_eq
  rw [toNat_wordCXyn (classOf w).isLt, toNat_classOf, val_xOf, val_yOf, toNat_and_FFF0, Fin.val_zero]
  omega

/-- Without its `y`. -/
theorem wordCXyn_fields_y0 (w : Word) : wordCXyn (classOf w).toNat (xOf w) 0 (nOf w) = w &&& 0xFF0F#16 := by
  apply BitVec.eq_of_toNat_eq
  rw [toNat_wordCXyn (classOf w).isLt, toNat_classOf, val_xOf, val_nOf, toNat_and_FF0F, Fin.val_zero]
  omega

/-! ## The row of an instruction (R85) -/

/-- The word matches the instruction's row of the opcode map. -/
def MatchesRow (w : Word) (i : Instr) : Prop := w &&& i.mask = i.pattern

/-- The instruction of the same row whose operands are the fields of `w` (R81). -/
def withFieldsOf (w : Word) : Instr → Instr
  | .cls => .cls
  | .ret => .ret
  | .jp _ => .jp (nnnOf w)
  | .call _ => .call (nnnOf w)
  | .seImm _ _ => .seImm (xOf w) (kkOf w)
  | .sneImm _ _ => .sneImm (xOf w) (kkOf w)
  | .seReg _ _ => .seReg (xOf w) (yOf w)
  | .ldImm _ _ => .ldImm (xOf w) (kkOf w)
  | .addImm _ _ => .addImm (xOf w) (kkOf w)
  | .ldReg _ _ => .ldReg (xOf w) (yOf w)
  | .orReg _ _ => .orReg (xOf w) (yOf w)
  | .andReg _ _ => .andReg (xOf w) (yOf w)
  | .xorReg _ _ => .xorReg (xOf w) (yOf w)
  | .addReg _ _ => .addReg (xOf w) (yOf w)
  | .subReg _ _ => .subReg (xOf w) (yOf w)
  | .shr _ => .shr (xOf w)
  | .subnReg _ _ => .subnReg (xOf w) (yOf w)
  | .shl _ => .shl (xOf w)
  | .sneReg _ _ => .sneReg (xOf w) (yOf w)
  | .ldI _ => .ldI (nnnOf w)
  | .jpV0 _ => .jpV0 (nnnOf w)
  | .rnd _ _ => .rnd (xOf w) (kkOf w)
  | .drw _ _ _ => .drw (xOf w) (yOf w) (nOf w)
  | .skp _ => .skp (xOf w)
  | .sknp _ => .sknp (xOf w)
  | .ldVxDt _ => .ldVxDt (xOf w)
  | .ldVxK _ => .ldVxK (xOf w)
  | .ldDtVx _ => .ldDtVx (xOf w)
  | .ldStVx _ => .ldStVx (xOf w)
  | .addI _ => .addI (xOf w)
  | .ldF _ => .ldF (xOf w)
  | .ldB _ => .ldB (xOf w)
  | .storeBlock _ => .storeBlock (xOf w)
  | .loadBlock _ => .loadBlock (xOf w)

/-- An address read from a word has 12 bits. -/
theorem wellFormed_withFieldsOf (w : Word) (i : Instr) : (withFieldsOf w i).wellFormed = true := by
  cases i with
  | jp | call | ldI | jpV0 => exact addr12_nnnOf w
  | _ => rfl

/-- The word of a well-formed instruction holds its operands. -/
theorem withFieldsOf_encode {i : Instr} (hi : i.wellFormed = true) : withFieldsOf (encode i) i = i := by
  cases i with
  | cls | ret => rfl
  | jp nnn | call nnn | ldI nnn | jpV0 nnn =>
    have hnnn : addr12 nnn = true := hi
    simp (disch := simp [hnnn]) only [withFieldsOf, encode, fields_wordCNnn]
  | seReg | sneReg | drw | ldReg | orReg | andReg | xorReg | addReg | subReg | subnReg | shr | shl =>
    simp (disch := decide) only [withFieldsOf, encode, fields_wordCXyn]
  | _ => simp (disch := decide) only [withFieldsOf, encode, fields_wordCXkk]

/-- The operands are read from used bits only. -/
theorem withFieldsOf_and_usedBits (w : Word) (i : Instr) : withFieldsOf (w &&& i.usedBits) i = withFieldsOf w i := by
  cases i with
  | cls | ret => rfl
  | seReg | sneReg => simp only [withFieldsOf, Instr.usedBits, fields_and_FFF0]
  | shr | shl => simp only [withFieldsOf, Instr.usedBits, xOf_and_FF0F]
  | _ => simp only [Instr.usedBits, and_FFFF]

/-- The bits of an instruction's mask are used bits. -/
theorem usedBits_and_mask (i : Instr) : i.usedBits &&& i.mask = i.mask := by
  cases i <;> simp only [Instr.usedBits, Instr.mask] <;> decide

/-! ## What a matched row says of the word -/

section
variable {w p : Word}

theorem classOf_eq_of_and_F000 (h : w &&& 0xF000#16 = p) : classOf w = classOf p := by
  rw [← h, fields_and_F000]

theorem fields_eq_of_and_F00F (h : w &&& 0xF00F#16 = p) : classOf w = classOf p ∧ nOf w = nOf p := by
  subst h
  simp only [fields_and_F00F, and_self]

theorem fields_eq_of_and_F0FF (h : w &&& 0xF0FF#16 = p) : classOf w = classOf p ∧ kkOf w = kkOf p := by
  subst h
  simp only [fields_and_F0FF, and_self]

end

/-- A word that matches a row decodes to the instruction of that row with the word's fields. -/
theorem decodeWord_of_matchesRow {w : Word} {i : Instr} (h : MatchesRow w i) :
    decodeWord w = .ok (withFieldsOf w i) := by
  cases i <;> simp only [MatchesRow, Instr.mask, Instr.pattern] at h
  case cls | ret =>
    obtain ⟨hc, hk⟩ := fields_eq_of_and_F0FF h
    have hd : decodeWord w = decodeClass0 w := by rw [decodeWord, hc]; rfl
    rw [hd, decodeClass0, hk]
    rfl
  case ldReg | orReg | andReg | xorReg | addReg | subReg | subnReg | shr | shl =>
    obtain ⟨hc, hn⟩ := fields_eq_of_and_F00F h
    have hd : decodeWord w = decodeClass8 w := by rw [decodeWord, hc]; rfl
    rw [hd, decodeClass8, hn]
    rfl
  case skp | sknp =>
    obtain ⟨hc, hk⟩ := fields_eq_of_and_F0FF h
    have hd : decodeWord w = decodeClassE w := by rw [decodeWord, hc]; rfl
    rw [hd, decodeClassE, hk]
    rfl
  case ldVxDt | ldVxK | ldDtVx | ldStVx | addI | ldF | ldB | storeBlock | loadBlock =>
    obtain ⟨hc, hk⟩ := fields_eq_of_and_F0FF h
    have hd : decodeWord w = decodeClassF w := by rw [decodeWord, hc]; rfl
    rw [hd, decodeClassF, hk]
    rfl
  all_goals
    rw [decodeWord, classOf_eq_of_and_F000 h]
    rfl

/-- The word of an instruction with a matching word's fields is that word with the ignored nibbles cleared (R86). -/
theorem encode_withFieldsOf {w : Word} {i : Instr} (h : MatchesRow w i) :
    encode (withFieldsOf w i) = w &&& i.usedBits := by
  cases i <;> simp only [MatchesRow, Instr.mask, Instr.pattern] at h
  case cls | ret => exact h.symm
  case jp | call | ldI | jpV0 =>
    have hw := wordCNnn_fields w
    rw [classOf_eq_of_and_F000 h] at hw
    exact hw.trans (and_FFFF w).symm
  case seImm | sneImm | ldImm | addImm | rnd =>
    have hw := wordCXkk_fields w
    rw [classOf_eq_of_and_F000 h] at hw
    exact hw.trans (and_FFFF w).symm
  case seReg | sneReg =>
    have hw := wordCXyn_fields_n0 w
    rwa [classOf_eq_of_and_F000 h] at hw
  case drw =>
    have hw := wordCXyn_fields w
    rw [classOf_eq_of_and_F000 h] at hw
    exact hw.trans (and_FFFF w).symm
  case shr | shl =>
    have hw := wordCXyn_fields_y0 w
    obtain ⟨hc, hn⟩ := fields_eq_of_and_F00F h
    rwa [hc, hn] at hw
  case ldReg | orReg | andReg | xorReg | addReg | subReg | subnReg =>
    have hw := wordCXyn_fields w
    obtain ⟨hc, hn⟩ := fields_eq_of_and_F00F h
    rw [hc, hn] at hw
    exact hw.trans (and_FFFF w).symm
  all_goals
    have hw := wordCXkk_fields w
    obtain ⟨hc, hk⟩ := fields_eq_of_and_F0FF h
    rw [hc, hk] at hw
    exact hw.trans (and_FFFF w).symm

/-! ## What is decoded matches its row -/

section
variable {w : Word} {i : Instr}

theorem matches_of_decodeClass0 (hc : (classOf w).toNat = 0x0) (h : decodeClass0 w = .ok i) :
    MatchesRow w i ∧ withFieldsOf w i = i := by
  unfold decodeClass0 at h
  split at h <;> cases h
  all_goals
    rename_i hk
    exact ⟨(and_F0FF_of_fields hc hk :), rfl⟩

theorem matches_of_decodeClass8 (hc : (classOf w).toNat = 0x8) (h : decodeClass8 w = .ok i) :
    MatchesRow w i ∧ withFieldsOf w i = i := by
  unfold decodeClass8 at h
  split at h <;> cases h
  all_goals
    rename_i hn
    exact ⟨(and_F00F_of_fields hc hn :), rfl⟩

theorem matches_of_decodeClassE (hc : (classOf w).toNat = 0xE) (h : decodeClassE w = .ok i) :
    MatchesRow w i ∧ withFieldsOf w i = i := by
  unfold decodeClassE at h
  split at h <;> cases h
  all_goals
    rename_i hk
    exact ⟨(and_F0FF_of_fields hc hk :), rfl⟩

theorem matches_of_decodeClassF (hc : (classOf w).toNat = 0xF) (h : decodeClassF w = .ok i) :
    MatchesRow w i ∧ withFieldsOf w i = i := by
  unfold decodeClassF at h
  split at h <;> cases h
  all_goals
    rename_i hk
    exact ⟨(and_F0FF_of_fields hc hk :), rfl⟩

/-- What is decoded has the row the word matches and the word's fields, class by class (R83, R84). -/
theorem matchesRow_of_decodeWord (h : decodeWord w = .ok i) : MatchesRow w i ∧ withFieldsOf w i = i := by
  have hlt := (classOf w).isLt
  unfold decodeWord at h
  split at h
  case h_1 hc => exact matches_of_decodeClass0 hc h
  case h_9 hc => exact matches_of_decodeClass8 hc h
  case h_15 hc => exact matches_of_decodeClassE hc h
  case h_16 =>
    have hc : (classOf w).toNat = 0xF := by simp only [imp_false] at *; omega
    exact matches_of_decodeClassF hc h
  all_goals
    rename_i hc
    cases h
    exact ⟨(and_F000_of_fields hc :), rfl⟩

end

/-- A word decodes to an instruction exactly when it matches the instruction's row and holds its operands. -/
theorem decodeWord_eq_ok_iff {w : Word} {i : Instr} :
    decodeWord w = .ok i ↔ MatchesRow w i ∧ withFieldsOf w i = i := by
  refine ⟨matchesRow_of_decodeWord, fun ⟨hrow, hfields⟩ => ?_⟩
  rw [decodeWord_of_matchesRow hrow, hfields]

/-! ## The word of an instruction -/

/-- Every instruction has its row in the opcode map, and its word matches that row. -/
theorem rowMatch : ∀ i : Instr, Laws.RowMatch.Statement i
  | .cls => Laws.RowMatch.cls
  | .ret => Laws.RowMatch.ret
  | .jp nnn => Laws.RowMatch.jp nnn
  | .call nnn => Laws.RowMatch.call nnn
  | .seImm x kk => Laws.RowMatch.seImm x kk
  | .sneImm x kk => Laws.RowMatch.sneImm x kk
  | .seReg x y => Laws.RowMatch.seReg x y
  | .ldImm x kk => Laws.RowMatch.ldImm x kk
  | .addImm x kk => Laws.RowMatch.addImm x kk
  | .ldReg x y => Laws.RowMatch.ldReg x y
  | .orReg x y => Laws.RowMatch.orReg x y
  | .andReg x y => Laws.RowMatch.andReg x y
  | .xorReg x y => Laws.RowMatch.xorReg x y
  | .addReg x y => Laws.RowMatch.addReg x y
  | .subReg x y => Laws.RowMatch.subReg x y
  | .shr x => Laws.RowMatch.shr x
  | .subnReg x y => Laws.RowMatch.subnReg x y
  | .shl x => Laws.RowMatch.shl x
  | .sneReg x y => Laws.RowMatch.sneReg x y
  | .ldI nnn => Laws.RowMatch.ldI nnn
  | .jpV0 nnn => Laws.RowMatch.jpV0 nnn
  | .rnd x kk => Laws.RowMatch.rnd x kk
  | .drw x y n => Laws.RowMatch.drw x y n
  | .skp x => Laws.RowMatch.skp x
  | .sknp x => Laws.RowMatch.sknp x
  | .ldVxDt x => Laws.RowMatch.ldVxDt x
  | .ldVxK x => Laws.RowMatch.ldVxK x
  | .ldDtVx x => Laws.RowMatch.ldDtVx x
  | .ldStVx x => Laws.RowMatch.ldStVx x
  | .addI x => Laws.RowMatch.addI x
  | .ldF x => Laws.RowMatch.ldF x
  | .ldB x => Laws.RowMatch.ldB x
  | .storeBlock x => Laws.RowMatch.storeBlock x
  | .loadBlock x => Laws.RowMatch.loadBlock x

theorem mem_opcodeRows (i : Instr) : (i.mask, i.pattern) ∈ opcodeRows := (rowMatch i).1

theorem matchesRow_encode (i : Instr) : MatchesRow (encode i) i := (rowMatch i).2

theorem decodeWord_encode {i : Instr} (hi : i.wellFormed = true) : decodeWord (encode i) = .ok i :=
  decodeWord_eq_ok_iff.2 ⟨matchesRow_encode i, withFieldsOf_encode hi⟩

/-- The two bytes of an instruction are its word (20_memory.md R55). -/
theorem decode_encodeBytes {i : Instr} (hi : i.wellFormed = true) (rest : List Byte) :
    decode (encodeBytes i ++ rest) = .ok (i, rest) := by
  rw [encodeBytes, List.cons_append, List.cons_append, List.nil_append, decode, wordOfBytes_bytes,
    decodeWord_encode hi]
  rfl

/-- Settles O5: an instruction's word matches its row and holds its operands. -/
theorem decodeOfEncodeIsTheInstruction : Obligations.DecodeOfEncodeIsTheInstruction :=
  fun _ hi => ⟨decodeWord_encode hi, decode_encodeBytes hi⟩

/-- A row looks at used bits only. -/
theorem matchesRow_and_usedBits {w : Word} {i : Instr} : MatchesRow (w &&& i.usedBits) i ↔ MatchesRow w i := by
  rw [MatchesRow, MatchesRow, BitVec.and_assoc, usedBits_and_mask]

/-- Settles O6: a decoded word has the encoded fields; conversely the used bits of a word fix its row and its fields. -/
theorem decodedWordIsTheInstructionsWord : Obligations.DecodedWordIsTheInstructionsWord := by
  intro w i
  constructor
  · intro hdec
    obtain ⟨hrow, hfields⟩ := decodeWord_eq_ok_iff.1 hdec
    have hwf := wellFormed_withFieldsOf w i
    have hword := encode_withFieldsOf hrow
    rw [hfields] at hwf hword
    exact ⟨hwf, hword.symm⟩
  · rintro ⟨hwf, hword⟩
    have hrow : MatchesRow w i := by
      rw [← matchesRow_and_usedBits, hword]
      exact matchesRow_encode i
    have hfields : withFieldsOf w i = i := by
      rw [← withFieldsOf_and_usedBits, hword, withFieldsOf_encode hwf]
    exact decodeWord_eq_ok_iff.2 ⟨hrow, hfields⟩

/-! ## Words written out -/

/-- Settles O4: each word is one of the opcode map's, written out. -/
theorem specWordsDecodeToTheirInstructions : Obligations.SpecWordsDecodeToTheirInstructions := by
  unfold Obligations.SpecWordsDecodeToTheirInstructions
  decide

/-! ## The unrecognised words (R87) -/

/-- One instruction of each row, in the order of the opcode map. -/
def instrOfEachRow : List Instr :=
  [.cls, .ret, .jp 0, .call 0, .seImm 0 0, .sneImm 0 0, .seReg 0 0, .ldImm 0 0, .addImm 0 0, .ldReg 0 0, .orReg 0 0,
   .andReg 0 0, .xorReg 0 0, .addReg 0 0, .subReg 0 0, .shr 0, .subnReg 0 0, .shl 0, .sneReg 0 0, .ldI 0, .jpV0 0,
   .rnd 0 0, .drw 0 0 0, .skp 0, .sknp 0, .ldVxDt 0, .ldVxK 0, .ldDtVx 0, .ldStVx 0, .addI 0, .ldF 0, .ldB 0,
   .storeBlock 0, .loadBlock 0]

theorem opcodeRows_eq_map : opcodeRows = instrOfEachRow.map fun i => (i.mask, i.pattern) := rfl

/-- Every row of the opcode map is some instruction's. -/
theorem exists_instr_of_mem_opcodeRows {row : Word × Word} (h : row ∈ opcodeRows) :
    ∃ i : Instr, row = (i.mask, i.pattern) := by
  rw [opcodeRows_eq_map, List.mem_map] at h
  obtain ⟨i, -, hi⟩ := h
  exact ⟨i, hi.symm⟩

/-- Decoding rejects a word exactly when no row of the opcode map fits it. -/
theorem decodeWord_error_iff_no_row (w : Word) :
    (∃ e, decodeWord w = .error e) ↔ ∀ row ∈ opcodeRows, w &&& row.1 ≠ row.2 := by
  constructor
  · rintro ⟨e, he⟩ row hmem hfit
    obtain ⟨i, rfl⟩ := exists_instr_of_mem_opcodeRows hmem
    cases he.symm.trans (decodeWord_of_matchesRow hfit)
  · intro hnone
    cases hdec : decodeWord w with
    | error e => exact ⟨e, rfl⟩
    | ok i => exact absurd (matchesRow_of_decodeWord hdec).1 (hnone _ (mem_opcodeRows i))

section
variable (w : Word)

theorem decodeClass0_error_iff : (∃ e, decodeClass0 w = .error e) ↔ kkOf w ≠ 0xE0 ∧ kkOf w ≠ 0xEE := by
  unfold decodeClass0
  split <;> simp_all [BitVec.toNat_eq]

theorem decodeClass8_error_iff : (∃ e, decodeClass8 w = .error e) ↔
    w.extractLsb' 0 4 ∈ [0x8#4, 0x9#4, 0xA#4, 0xB#4, 0xC#4, 0xD#4, 0xF#4] := by
  have hlt := (w.extractLsb' 0 4).isLt
  simp only [decodeClass8, nOf, List.mem_cons, List.not_mem_nil, or_false, BitVec.toNat_eq, BitVec.toNat_ofNat]
  split
  case h_10 =>
    simp only [imp_false] at *
    exact iff_of_true ⟨_, rfl⟩ (by omega)
  all_goals
    rename_i hn
    simp [hn]

theorem decodeClassE_error_iff : (∃ e, decodeClassE w = .error e) ↔ kkOf w ≠ 0x9E ∧ kkOf w ≠ 0xA1 := by
  unfold decodeClassE
  split <;> simp_all [BitVec.toNat_eq]

theorem decodeClassF_error_iff : (∃ e, decodeClassF w = .error e) ↔
    kkOf w ∉ [0x07#8, 0x0A#8, 0x15#8, 0x18#8, 0x1E#8, 0x29#8, 0x33#8, 0x55#8, 0x65#8] := by
  unfold decodeClassF
  split <;> simp_all [BitVec.toNat_eq]

/-- The words R87 lists: class 0, 8, E or F with a sub-selector that has no handler. -/
theorem decodeWord_error_iff_classTable : (∃ e, decodeWord w = .error e) ↔
    (classOf w = 0x0 ∧ kkOf w ≠ 0xE0 ∧ kkOf w ≠ 0xEE) ∨
    (classOf w = 0x8 ∧ w.extractLsb' 0 4 ∈ [0x8#4, 0x9#4, 0xA#4, 0xB#4, 0xC#4, 0xD#4, 0xF#4]) ∨
    (classOf w = 0xE ∧ kkOf w ≠ 0x9E ∧ kkOf w ≠ 0xA1) ∨
    (classOf w = 0xF ∧
      kkOf w ∉ [0x07#8, 0x0A#8, 0x15#8, 0x18#8, 0x1E#8, 0x29#8, 0x33#8, 0x55#8, 0x65#8]) := by
  have hlt := (classOf w).isLt
  rw [← decodeClass0_error_iff, ← decodeClass8_error_iff, ← decodeClassE_error_iff, ← decodeClassF_error_iff]
  simp only [decodeWord, BitVec.toNat_eq]
  split
  case h_16 =>
    have hc : (classOf w).toNat = 0xF := by simp only [imp_false] at *; omega
    simp [hc]
  all_goals
    rename_i hc
    simp [hc]

end

/-- Settles O7: the class table by the decoder's own split, the rows by what it decodes to. -/
theorem unrecognisedWordsAreThoseOfTheClassTable : Obligations.UnrecognisedWordsAreThoseOfTheClassTable :=
  fun w => ⟨decodeWord_error_iff_classTable w, decodeWord_error_iff_no_row w⟩

end Sys2Proof.Encoding
end

section
/-!
The single row of the opcode map that dispatch selects (40_cycle.md R103). A row that fits a word fixes what the word
decodes to, up to its operands, so two rows that fit are the same.
-/

namespace Sys2Proof.Encoding

/-- Filling in operands does not change the row. -/
theorem row_withFieldsOf (w : Word) (i : Instr) :
    (withFieldsOf w i).mask = i.mask ∧ (withFieldsOf w i).pattern = i.pattern := by
  cases i <;> exact ⟨rfl, rfl⟩

/-- Every row that fits a decoded word is the row of the decoded instruction. -/
theorem row_eq_of_decodeWord {w : Word} {i : Instr} {row : Word × Word} (h : decodeWord w = .ok i)
    (hmem : row ∈ opcodeRows) (hfit : w &&& row.1 = row.2) : row = (i.mask, i.pattern) := by
  obtain ⟨j, rfl⟩ := exists_instr_of_mem_opcodeRows hmem
  have hj : i = withFieldsOf w j := Except.ok.inj (h.symm.trans (decodeWord_of_matchesRow hfit))
  rw [hj, (row_withFieldsOf w j).1, (row_withFieldsOf w j).2]

/-- Settles O8: the decoded instruction's row is in the map, fits, and is the only one to fit. -/
theorem dispatchSelectsTheSingleFittingRow : Obligations.DispatchSelectsTheSingleFittingRow := by
  intro w
  constructor
  · intro i hdec
    exact ⟨mem_opcodeRows i, (matchesRow_of_decodeWord hdec).1, fun _ hmem hfit => row_eq_of_decodeWord hdec hmem hfit⟩
  · intro e hdec
    exact (decodeWord_error_iff_no_row w).1 ⟨e, hdec⟩

end Sys2Proof.Encoding
end

section
/-!
The cycle request (40_cycle.md R100 to R107): what a step that takes one does, by the core's `STATUS` and the word at
`PC`.
-/

namespace Sys2Proof.Safety

open Sys2Proof.Machine

/-! ## The fetch of a framed state -/

/-- The fetch reads `PC` and memory, so a frame that holds both keeps it (20_memory.md R63). -/
theorem UnchangedBut.fetch_eq {ps : List Piece} {s t : State} (h : UnchangedBut ps s t) (hpc : .pc ∉ ps)
    (hmem : .mem ∉ ps) : t.fetch = s.fetch :=
  fetch_congr (h .pc hpc) (h .mem hmem)

/-! ## A fault ends its cycle -/

/-- A fault at the end of a cycle is not followed by a tick (60_exceptions.md R205, R219). -/
theorem endCycle_raise (ticks : Bool) (c : FaultCause) (s : State) : endCycle ticks (raise c s) = raise c s := by
  rw [raise_eq, endCycle_next, setStatus_status, Status.isRunning, Bool.and_false]
  rfl

/-- Taking a fault changes `STATUS` and nothing else (60_exceptions.md R205). -/
theorem raise_haltsWith (c : FaultCause) (s : State) : ∃ t, raise c s = .next t ∧ HaltsWith c s t :=
  ⟨_, raise_eq c s, by simp, rfl⟩

/-! ## A cycle by what it fetches -/

/-- A running core with a recognised word at `PC` executes its instruction (R100). -/
theorem cycle_decoded {s : State} {i : Instr} (hs : s.status = .running) (hpc : s.pc.toNat + 1 < 0x1000)
    (hdec : decodeWord (wordOfBytes (s.read s.pc.toNat) (s.read (s.pc.toNat + 1))) = .ok i) (ticks : Bool) :
    cycle ticks s = endCycle ticks (exec i s) := by
  rw [cycle_word hs (fetch_ok hpc), executeWord, hdec]

/-- A running core with an unrecognised word at `PC` does as its policy says (R104, R105). -/
theorem cycle_unrecognised {s : State} {w : Word} {e : DecodeReject} (hs : s.status = .running)
    (hf : s.fetch = .ok w) (hdec : decodeWord w = .error e) (ticks : Bool) :
    cycle ticks s = endCycle ticks (unrecognised s.params.illegalPolicy w s) := by
  rw [cycle_word hs hf, executeWord, hdec]

/-- A step that takes a cycle request is the cycle. -/
theorem step_cycle {s : State} {ticks : Bool} {rest : List HostMove} (h : s.inbox = .cycle ticks :: rest) :
    step s = cycle ticks (s.setInbox rest) :=
  step_move h

/-! ## The statements about a cycle request -/

/-- Settles O9: with a pending request and with none, the step is a cycle over a state with the same `STATUS`, `PC` and
memory. -/
theorem stepRunsTheDecodedInstruction : Obligations.StepRunsTheDecodedInstruction := by
  intro s i hs hpc _ hdec
  constructor
  · intro ticks rest hin
    rw [step_cycle hin, cycle_decoded (s := s.setInbox rest) hs hpc hdec]
  · intro hin
    rw [step_noMove hin, cycle_decoded (s := s.countTickDraw) hs hpc hdec]

/-- Settles O11: under `Stall` the word leaves the state to the end of the cycle, and a tick touches neither `PC` nor
memory. -/
theorem unrecognisedWordStalls : Obligations.UnrecognisedWordStalls := by
  intro s w e ticks rest hpolicy hs hin hf hdec
  have hstep : step s = .next (if ticks then tick (s.setInbox rest) else s.setInbox rest) := by
    rw [step_cycle hin, cycle_unrecognised (s := s.setInbox rest) hs hf hdec, setInbox_params, hpolicy, unrecognised,
      endCycle_next, setInbox_status, isRunning_iff.2 hs, Bool.and_true]
  cases ticks with
  | false => exact ⟨s.setInbox rest, hstep, hf, fun _ => rfl, nofun⟩
  | true =>
    have hfetch : (tick (s.setInbox rest)).fetch = s.fetch :=
      (tick_unchangedBut (s.setInbox rest)).fetch_eq (by decide) (by decide)
    exact ⟨tick (s.setInbox rest), hstep, hfetch.trans hf, nofun, fun _ => rfl⟩

/-- Settles O12: under the policy `Fault` the cycle is the fault of the word, which a tick does not follow. -/
theorem unrecognisedWordFaultsUnderTheFaultPolicy : Obligations.UnrecognisedWordFaultsUnderTheFaultPolicy := by
  intro s w e ticks rest hpolicy hs hin hf hdec
  have hstep : step s = raise (.illegalInstruction w) (s.setInbox rest) := by
    rw [step_cycle hin, cycle_unrecognised (s := s.setInbox rest) hs hf hdec, setInbox_params, hpolicy, unrecognised,
      endCycle_raise]
  obtain ⟨t, ht, hframe, hstatus⟩ := raise_haltsWith (.illegalInstruction w) (s.setInbox rest)
  rw [fetchedWord_ok (s := s.setInbox rest) hf] at hstatus
  exact ⟨t, hstep.trans ht, hframe, hstatus⟩

/-- Settles O13: the fetch faults, so the cycle is that fault and no word is recorded. -/
theorem fetchPastMemoryHalts : Obligations.FetchPastMemoryHalts := by
  intro s ticks rest hs hin hpc
  have hf : (s.setInbox rest).fetch = .error (.addressOutOfRange (max s.pc.toNat 0x1000)) := fetch_error hpc
  obtain ⟨t, ht, hframe, hstatus⟩ := raise_haltsWith (.addressOutOfRange (max s.pc.toNat 0x1000)) (s.setInbox rest)
  rw [fetchedWord_error hf] at hstatus
  refine ⟨t, ?_, hframe, hstatus⟩
  rw [step_cycle hin, cycle_fetchFault (s := s.setInbox rest) hs hf, ht]

/-- Settles O15: the step is a cycle of a halted core. -/
theorem haltedCoreIgnoresCycleRequests : Obligations.HaltedCoreIgnoresCycleRequests := by
  intro s r ticks rest hs hin
  rw [step_cycle hin, cycle_halted (s := s.setInbox rest) hs]

end Sys2Proof.Safety
end

section
/-!
The range of `PC` and of the return addresses in use (40_cycle.md R106). An instruction executes with `PC` at or below
0xFFE, since its word was fetched there, and goes no further than 0x10FE, which JP V0 can reach; only a CALL puts an
address on the stack, and it is that `PC`.
-/

namespace Sys2Proof.Safety

open Sys2Proof.Machine

/-! ## The return addresses in use -/

/-- The entries below `sp` are addresses of CALL instructions that were fetched. -/
def ReturnsInRange (stack : Vector Word Config.stackCapacity) (sp : Nat) : Prop :=
  ∀ (k : Nat) (w : Word), k < sp → stack[k]? = some w → w.toNat ≤ 0xFFE

/-- The two halves of the invariant. -/
theorem pcInRange_iff {s : State} : PcInRange s ↔ s.pc.toNat ≤ 0x10FE ∧ ReturnsInRange s.stack s.sp.val := Iff.rfl

section
variable {stack : Vector Word Config.stackCapacity} {sp : Nat}

theorem returnsInRange_zero : ReturnsInRange stack 0 := fun _ _ hk _ => absurd hk (Nat.not_lt_zero _)

/-- Popping leaves fewer entries in use. -/
theorem ReturnsInRange.mono {sp' : Nat} (h : ReturnsInRange stack sp) (hle : sp' ≤ sp) : ReturnsInRange stack sp' :=
  fun k w hk hw => h k w (Nat.lt_of_lt_of_le hk hle) hw

/-- An entry in use can be popped. -/
theorem ReturnsInRange.entry_le (h : ReturnsInRange stack sp) (k : Fin Config.stackCapacity) (hk : k.val < sp) :
    stack[k].toNat ≤ 0xFFE :=
  h k.val stack[k] hk (Vector.getElem?_eq_getElem k.isLt)

/-- Pushing an address in range keeps all entries in use in range. -/
theorem ReturnsInRange.push (h : ReturnsInRange stack sp) {w : Word} (hw : w.toNat ≤ 0xFFE)
    (hsp : sp < Config.stackCapacity) : ReturnsInRange (stack.set sp w hsp) (sp + 1) := by
  intro k v hk hv
  rw [Vector.getElem?_set] at hv
  by_cases heq : sp = k
  · rw [if_pos heq] at hv
    cases hv
    exact hw
  · rw [if_neg heq] at hv
    exact h k v (by omega) hv

end

/-! ## Where `PC` goes -/

theorem advance_pc_le {s : State} (h : s.pc.toNat + 1 < 0x1000) : s.advance.pc.toNat ≤ 0x10FE := by
  rw [advance_pc, toNat_trunc16]
  omega

theorem skip_pc_le {s : State} (h : s.pc.toNat + 1 < 0x1000) (cond : Bool) : (s.skip cond).pc.toNat ≤ 0x10FE := by
  rw [skip_pc, toNat_trunc16]
  split <;> omega

/-- `PC` has moved within its range and the stack is as it was. -/
theorem PcInRange.of_pc_le {s t : State} (hs : PcInRange s) (hpc : t.pc.toNat ≤ 0x10FE) (hsp : t.sp = s.sp)
    (hstack : t.stack = s.stack) : PcInRange t := by
  rw [pcInRange_iff, hsp, hstack]
  exact ⟨hpc, (pcInRange_iff.1 hs).2⟩

theorem PcInRange.congr {ps : List Piece} {s t : State} (hs : PcInRange s) (h : UnchangedBut ps s t)
    (hpc : .pc ∉ ps) (hstack : .stack ∉ ps) : PcInRange t := by
  obtain ⟨hsp, hentries⟩ := h .stack hstack
  have hp : t.pc = s.pc := h .pc hpc
  exact hs.of_pc_le (hp ▸ hs.1) hsp hentries

/-- A fault moves neither `PC` nor the stack, so a checked operation keeps the range if what is done with its value
does. -/
theorem pcInRange_orRaise {α : Type} {r : Except FaultCause α} {s t : State} {go : α → Result} (hs : PcInRange s)
    (h : orRaise r s go = .next t) (hgo : ∀ a, r = .ok a → go a = .next t → PcInRange t) : PcInRange t := by
  obtain ⟨a, hr, ha⟩ | ⟨c, -, rfl⟩ := orRaise_cases h
  · exact hgo a hr ha
  · exact hs

/-! ## The range is kept -/

/-- A well-formed instruction fetched inside the address space keeps the range: it advances or skips from there, jumps
to a 12-bit address and at most 255 more, or goes two past a return address. -/
theorem exec_pcInRange {i : Instr} {s t : State} (hs : PcInRange s) (hi : i.wellFormed = true)
    (hpc : s.pc.toNat + 1 < 0x1000) (h : exec i s = .next t) : PcInRange t := by
  cases i with
  | cls | ldImm | addImm | ldReg | orReg | andReg | xorReg | addReg | subReg | shr | subnReg | shl | ldI | rnd
  | ldVxDt | ldDtVx | ldStVx | addI | ldF =>
    cases h
    exact hs.of_pc_le (advance_pc_le hpc) rfl rfl
  | seImm | sneImm | seReg | sneReg =>
    cases h
    exact hs.of_pc_le (skip_pc_le hpc _) rfl rfl
  | drw | ldB | storeBlock | loadBlock =>
    refine pcInRange_orRaise hs h fun _ _ hgo => ?_
    cases hgo
    exact hs.of_pc_le (advance_pc_le hpc) rfl rfl
  | skp | sknp =>
    refine pcInRange_orRaise hs h fun _ _ hgo => ?_
    cases hgo
    exact hs.of_pc_le (skip_pc_le hpc _) rfl rfl
  | ldVxK =>
    simp only [exec, execLdVxK] at h
    split at h <;> cases h
    · exact hs.of_pc_le (advance_pc_le hpc) rfl rfl
    · exact hs
  | jp nnn =>
    cases h
    have hnnn : nnn.toNat < 0x1000 := of_decide_eq_true hi
    exact hs.of_pc_le (by rw [setPc_pc]; omega) rfl rfl
  | jpV0 nnn =>
    cases h
    have hnnn : nnn.toNat < 0x1000 := of_decide_eq_true hi
    have hv := (s.getV 0).isLt
    exact hs.of_pc_le (by rw [setPc_pc, toNat_trunc16]; omega) rfl rfl
  | call nnn =>
    have hnnn : nnn.toNat < 0x1000 := of_decide_eq_true hi
    refine pcInRange_orRaise hs h fun a ha hgo => ?_
    obtain ⟨hlt, hpush⟩ | ⟨_, hpush⟩ := push_cases ha
    · cases hpush
      cases hgo
      have hreturns : ReturnsInRange s.stack s.sp.val := (pcInRange_iff.1 hs).2
      have hcaller : s.pc.toNat ≤ 0xFFE := by omega
      exact pcInRange_iff.2 ⟨by rw [setPc_pc]; omega, hreturns.push hcaller (lt_capacity_of_lt_depth hlt)⟩
    · cases hpush
  | ret =>
    refine pcInRange_orRaise hs h fun a ha hgo => ?_
    obtain ⟨k, q, hk, hq, hpop⟩ | ⟨-, hpop⟩ := pop_cases ha
    · cases hpop
      cases hgo
      have hreturns : ReturnsInRange s.stack s.sp.val := (pcInRange_iff.1 hs).2
      have hentry : s.stack[k].toNat ≤ 0xFFE := hreturns.entry_le k (by omega)
      exact pcInRange_iff.2 ⟨by simp only [setPc_pc, toNat_trunc16]; omega, hreturns.mono (sp' := q.val) (by omega)⟩
    · cases hpop

/-- What is decoded is well-formed, and an unrecognised word moves nothing. -/
theorem executeWord_pcInRange {w : Word} {s t : State} (hs : PcInRange s) (hpc : s.pc.toNat + 1 < 0x1000)
    (h : executeWord w s = .next t) : PcInRange t := by
  obtain ⟨i, hdec, hexec⟩ | ⟨e, -, ⟨-, rfl⟩ | ⟨-, rfl⟩⟩ := executeWord_cases h
  · have hi : i.wellFormed = true := by
      rw [← (Encoding.matchesRow_of_decodeWord hdec).2]
      exact Encoding.wellFormed_withFieldsOf w i
    exact exec_pcInRange hs hi hpc hexec
  · exact hs
  · exact hs

/-- A cycle executes only a word it fetched, and a tick moves nothing. -/
theorem cycle_pcInRange {s t : State} {ticks : Bool} (hs : PcInRange s) (h : cycle ticks s = .next t) :
    PcInRange t := by
  obtain ⟨r, -, rfl⟩ | ⟨c, -, -, rfl⟩ | ⟨w, u, -, hf, hu, hend⟩ := cycle_cases h
  · exact hs
  · exact hs
  · have hexec : PcInRange u := executeWord_pcInRange hs (pc_of_fetch hf) hu
    obtain ⟨-, -, rfl⟩ | ⟨-, rfl⟩ := hend
    · exact hexec.congr (tick_unchangedBut u) (by decide) (by decide)
    · exact hexec

/-- A load that succeeds goes to 0x200, one that fails nowhere (70_reset_and_hazards.md R243 to R245). -/
theorem loadImage_pcInRange {s : State} (hs : PcInRange s) (image : Option (List Byte)) :
    PcInRange (loadImage image s) := by
  unfold loadImage
  split
  · exact hs
  · split
    · have hbase : (trunc16 Config.progBase).toNat ≤ 0x10FE := by decide
      exact hs.of_pc_le hbase rfl rfl
    · exact hs

/-- Settles O29: the cycle and the load keep the range, and no other move touches `PC` or the stack. -/
theorem stepKeepsPcInRange : Obligations.StepKeepsPcInRange := by
  intro s t hs h
  obtain ⟨ticks, s', hc, hs'⟩ | ⟨rest, k, down, rfl⟩ | ⟨rest, image, rfl⟩ | ⟨rest, rfl⟩ := step_cases h
  · have htaken : PcInRange s' := by
      obtain ⟨rest, -, rfl⟩ | ⟨-, rfl⟩ := hs' <;> exact hs
    exact cycle_pcInRange htaken hc
  · have htaken : PcInRange (s.setInbox rest) := hs
    exact htaken.congr (keyEvent_unchangedBut k down _) (by decide) (by decide)
  · exact loadImage_pcInRange (s := s.setInbox rest) hs image
  · exact hs

/-! ## The invariants at construction -/

/-- Settles O3: memory lists nothing, `PC` is 0x200 and the stack is empty. -/
theorem resetMeetsTheInvariants : Obligations.ResetMeetsTheInvariants := by
  intro p
  have hmem : MemoryCanonical (State.resetWith p) := wf_resetWith p
  have hpc : Config.pcReset.toNat ≤ 0x10FE := by decide
  exact ⟨hmem, pcInRange_iff.2 ⟨hpc, returnsInRange_zero⟩, Nat.zero_le _⟩

end Sys2Proof.Safety
end

section
/-!
Control transfer (41_control.md): what CALL and RET do, said once for a stack with room, a full one, one with an entry
and an empty one, and what the four skips share (R123).
-/

namespace Sys2Proof.Safety

open Sys2Proof.Machine

/-! ## CALL and RET (R121, R122) -/

/-- CALL with room on the stack. -/
theorem exec_call_of_room {s : State} (nnn : Word) (h : s.sp.val < s.params.stackDepth.val) :
    exec (.call nnn) s =
      .next ((s.setStack (s.stack.set s.sp.val s.pc (lt_capacity_of_lt_depth h))
        ⟨s.sp.val + 1, Nat.succ_lt_succ (lt_capacity_of_lt_depth h)⟩).setPc nnn) := by
  rw [exec, execCall, push_ok s.pc h, orRaise_ok]

/-- CALL on a full stack. -/
theorem exec_call_of_full {s : State} (nnn : Word) (h : s.params.stackDepth.val ≤ s.sp.val) :
    exec (.call nnn) s = raise (.stackOverflow s.sp.val) s := by
  rw [exec, execCall, push_full s.pc (Nat.not_lt.2 h), orRaise_error]

/-- RET with entry `k` on top. -/
theorem exec_ret_of_entry {s : State} {k : Fin Config.stackCapacity} (h : s.sp.val = k.val + 1) :
    exec .ret s = .next ((s.setStack s.stack k.castSucc).setPc (trunc16 (s.stack[k].toNat + 2))) := by
  obtain ⟨j, q, hj, hq, hpop⟩ | ⟨h0, -⟩ := pop_cases (s := s) rfl
  · obtain rfl : j = k := Fin.ext (by omega)
    obtain rfl : q = j.castSucc := Fin.ext hq
    rw [exec, execRet, hpop, orRaise_ok]
  · omega

/-- RET on an empty stack. -/
theorem exec_ret_of_empty {s : State} (h : s.sp.val = 0) : exec .ret s = raise (.stackUnderflow 0) s := by
  obtain ⟨k, _, hk, -, -⟩ | ⟨-, hpop⟩ := pop_cases (s := s) rfl
  · omega
  · rw [exec, execRet, hpop, orRaise_error, h]

/-- Settles O33: `exec_call_of_room` writes the one entry, and `exec_call_of_full` is a fault. -/
theorem callPushesItsOwnAddress : Obligations.CallPushesItsOwnAddress := by
  intro nnn s
  constructor
  · intro hroom
    refine ⟨_, exec_call_of_room nnn hroom, rfl, rfl, fun k => ?_, by simp⟩
    simp only [setPc_stack, setStack_stack, Fin.getElem_fin, Vector.getElem_set, eq_comm]
  · intro hfull
    rw [exec_call_of_full nnn hfull]
    exact raise_haltsWith _ s

/-- Settles O34: `exec_ret_of_entry` keeps the entries, and `exec_ret_of_empty` is a fault. -/
theorem retGoesToTheWordAfterThePoppedAddress : Obligations.RetGoesToTheWordAfterThePoppedAddress := by
  intro s
  constructor
  · intro k hk
    exact ⟨_, exec_ret_of_entry hk, toNat_trunc16 _, rfl, rfl, by simp⟩
  · intro hempty
    rw [exec_ret_of_empty hempty]
    exact raise_haltsWith _ s

/-- Settles O35: the entry on top of `u`'s stack is the one the CALL wrote at `s`'s depth. -/
theorem retUndoesCall : Obligations.RetUndoesCall := by
  intro nnn s t u hroom hcall husp hustack
  have hcap : s.sp.val < Config.stackCapacity := lt_capacity_of_lt_depth hroom
  rw [exec_call_of_room nnn hroom] at hcall
  cases hcall
  have hdepth : u.sp.val = s.sp.val + 1 := by rw [husp]; rfl
  have htop : u.stack[s.sp.val] = s.pc := by simp [hustack]
  refine ⟨_, exec_ret_of_entry (k := ⟨s.sp.val, hcap⟩) hdepth, ?_, rfl⟩
  simp [AdvancedBy, htop]

/-! ## Skips (R123 to R127) -/

/-- A skip whose condition says `p` advances by 4 where `p` holds, else by 2. -/
theorem skip_advancedBy {p : Prop} [Decidable p] {cond : Bool} (s : State) (h : cond = true ↔ p) :
    AdvancedBy (if p then 4 else 2) s (s.skip cond) := by
  simp only [AdvancedBy, skip_pc, toNat_trunc16, h]

/-- What the four skip instructions share: only `PC` changes, by the condition. -/
theorem next_skip_advancedBy {p : Prop} [Decidable p] {cond : Bool} (s : State) (h : cond = true ↔ p) :
    ∃ t, (.next (s.skip cond) : Result) = .next t ∧ UnchangedBut [.pc] s t ∧
      AdvancedBy (if p then 4 else 2) s t :=
  ⟨_, rfl, by simp, skip_advancedBy s h⟩

/-- Settles O36: each instruction is the skip on a comparison of bytes, which is one of their values. -/
theorem skipsAdvanceByFourOrTwo : Obligations.SkipsAdvanceByFourOrTwo := by
  have heq (a b : Byte) : (a == b) = true ↔ a.toNat = b.toNat := beq_iff_eq.trans BitVec.toNat_inj.symm
  have hne (a b : Byte) : (a != b) = true ↔ a.toNat ≠ b.toNat := bne_iff_ne.trans BitVec.toNat_inj.not.symm
  intro x y kk s
  exact ⟨next_skip_advancedBy s (heq _ _), next_skip_advancedBy s (hne _ _), next_skip_advancedBy s (heq _ _),
    next_skip_advancedBy s (hne _ _)⟩

/-! ## Jumps (R120, R128) -/

/-- `V[0]` plus a 12-bit address fits in 16 bits. -/
theorem toNat_indexedTarget {nnn : Word} (v0 : Byte) (h : nnn.toNat < 0x1000) :
    (trunc16 (v0.toNat + nnn.toNat)).toNat = v0.toNat + nnn.toNat := by
  have hv0 := v0.isLt
  rw [toNat_trunc16]
  omega

/-- Settles O32: both jumps set `PC` alone, and the indexed sum does not wrap. -/
theorem jumpsGoToTheirTargets : Obligations.JumpsGoToTheirTargets := by
  intro nnn s
  constructor
  · exact ⟨s.setPc nnn, rfl, rfl, by simp⟩
  · intro hnnn
    exact ⟨_, rfl, toNat_indexedTarget (s.getV 0) hnnn, by simp⟩

end Sys2Proof.Safety
end

section
/-!
The ALU, register loads and random (42_alu.md): what an instruction that writes one register, or a result and then a
flag, leaves behind, said once for each of the two forms; then the value of each result and each flag.
-/

namespace Sys2Proof.Safety

open Sys2Proof.Machine

/-! ## The two forms of register write, each followed by the default advance -/

section
variable (s : State) (x : RegIdx)

theorem regsAfter_setV (b : Byte) : RegsAfter x b.toNat s (s.setV x b) := by
  intro k
  rw [getV_setV, apply_ite BitVec.toNat]

theorem regsAfterFlag_setResultAndFlag (result flag : Byte) :
    RegsAfterFlag x result.toNat flag.toNat s (s.setResultAndFlag x result flag) := by
  intro k
  rw [getV_setResultAndFlag, apply_ite BitVec.toNat, apply_ite BitVec.toNat]

/-- The default advance of a state whose `PC` is still that of the instruction (40_cycle.md R102). -/
theorem advance_advancedBy {s t : State} (h : t.pc = s.pc) : AdvancedBy 2 s t.advance := by
  rw [AdvancedBy, advance_pc, toNat_trunc16, h]

/-- What the instructions that write one register share. -/
theorem next_setV_spec {b : Byte} {result : Nat} (h : b.toNat = result) :
    ∃ t, (.next (s.setV x b).advance : Result) = .next t ∧ RegsAfter x result s t ∧ AdvancedBy 2 s t ∧
      UnchangedBut [.v, .pc] s t :=
  ⟨_, rfl, h ▸ regsAfter_setV s x b, advance_advancedBy rfl, by simp⟩

/-- What the instructions that write a result and then a flag share (R152). -/
theorem next_setResultAndFlag_spec {b c : Byte} {result flag : Nat} (hb : b.toNat = result) (hc : c.toNat = flag) :
    ∃ t, (.next (s.setResultAndFlag x b c).advance : Result) = .next t ∧ AdvancedBy 2 s t ∧
      UnchangedBut [.v, .pc] s t ∧ RegsAfterFlag x result flag s t :=
  ⟨_, rfl, advance_advancedBy rfl, by simp, hb ▸ hc ▸ regsAfterFlag_setResultAndFlag s x b c⟩

end

/-! ## The results and the flags as numbers -/

section
variable (a b : Byte)

theorem toNat_addResult : (addResult a b).toNat = (a.toNat + b.toNat) % 256 := toNat_trunc8 _

theorem toNat_subResult : (subResult a b).toNat = (a.toNat + 256 - b.toNat) % 256 := toNat_trunc8 _

/-- The right shift needs no narrowing: half a byte is a byte. -/
theorem toNat_shrResult : (shrResult a).toNat = a.toNat >>> 1 := by
  have ha := a.isLt
  rw [shrResult, toNat_trunc8, Nat.shiftRight_eq_div_pow]
  omega

theorem toNat_shlResult : (shlResult a).toNat = (a.toNat <<< 1) % 256 := by
  rw [shlResult, toNat_trunc8, Nat.shiftLeft_eq]

/-- The flag of a comparison is 1 where it holds. -/
theorem toNat_flagByte_decide (p : Prop) [Decidable p] : (flagByte (decide p)).toNat = if p then 1 else 0 := by
  rw [toNat_flagByte]
  simp only [decide_eq_true_eq]

theorem toNat_flag_carryOut :
    (flagByte (carryOut a b)).toNat = if a.toNat + b.toNat > 255 then 1 else 0 :=
  toNat_flagByte_decide _

theorem toNat_flag_noBorrow : (flagByte (noBorrow a b)).toNat = if a.toNat ≥ b.toNat then 1 else 0 :=
  toNat_flagByte_decide _

/-- The flag of one bit of a byte is that bit as a number. -/
theorem toNat_flag_getLsbD (k : Nat) : (flagByte (a.getLsbD k)).toNat = a.toNat >>> k % 2 := by
  rw [toNat_flagByte, BitVec.getLsbD, Nat.testBit_eq_decide_div_mod_eq, Nat.shiftRight_eq_div_pow]
  simp only [decide_eq_true_eq]
  split <;> omega

theorem toNat_flag_shrOut : (flagByte (shrOut a)).toNat = a.toNat &&& 1 := by
  rw [shrOut, toNat_flag_getLsbD, Nat.shiftRight_zero, Nat.and_one_is_mod]

/-- Bit 7 is the top bit: above it a byte has nothing to mask off. -/
theorem toNat_flag_shlOut : (flagByte (shlOut a)).toNat = a.toNat >>> 7 := by
  have ha := a.isLt
  rw [shlOut, toNat_flag_getLsbD, Nat.shiftRight_eq_div_pow]
  omega

end

/-! ## The instructions -/

/-- Settles O37: both loads write one register, with a byte they have. -/
theorem loadsWriteOneRegister : Obligations.LoadsWriteOneRegister :=
  fun x _ _ s => ⟨next_setV_spec s x rfl, next_setV_spec s x rfl⟩

/-- Settles O38: the one register written holds the narrowed sum, `toNat_addResult`. -/
theorem addImmediateWrapsWithoutFlag : Obligations.AddImmediateWrapsWithoutFlag :=
  fun x kk s => next_setV_spec s x (toNat_addResult (s.getV x) kk)

/-- Settles O39: a bitwise operation on bytes is that on their values, and the flag is the byte 0. -/
theorem logicWritesResultAndClearsVf : Obligations.LogicWritesResultAndClearsVf :=
  fun x y s =>
    ⟨next_setResultAndFlag_spec s x (BitVec.toNat_or (s.getV x) (s.getV y)) rfl,
      next_setResultAndFlag_spec s x (BitVec.toNat_and (s.getV x) (s.getV y)) rfl,
      next_setResultAndFlag_spec s x (BitVec.toNat_xor (s.getV x) (s.getV y)) rfl⟩

/-- Settles O40: `toNat_addResult` with the carry. -/
theorem addWritesSumAndCarry : Obligations.AddWritesSumAndCarry :=
  fun x y s =>
    next_setResultAndFlag_spec s x (toNat_addResult (s.getV x) (s.getV y)) (toNat_flag_carryOut (s.getV x) (s.getV y))

/-- Settles O41: `toNat_subResult` with no-borrow, the operands exchanged for SUBN. -/
theorem subtractionsWriteDifferenceAndNoBorrow : Obligations.SubtractionsWriteDifferenceAndNoBorrow :=
  fun x y s =>
    ⟨next_setResultAndFlag_spec s x (toNat_subResult _ _) (toNat_flag_noBorrow _ _),
      next_setResultAndFlag_spec s x (toNat_subResult _ _) (toNat_flag_noBorrow _ _)⟩

/-- Settles O42: each shifted value with the bit at the end it was shifted out of. -/
theorem shiftsPutTheBitShiftedOutIntoVf : Obligations.ShiftsPutTheBitShiftedOutIntoVf :=
  fun x s =>
    ⟨next_setResultAndFlag_spec s x (toNat_shrResult (s.getV x)) (toNat_flag_shrOut (s.getV x)),
      next_setResultAndFlag_spec s x (toNat_shlResult (s.getV x)) (toNat_flag_shlOut (s.getV x))⟩

/-- Settles O43: the drawn byte under the mask goes to one register; besides, only the draw is counted. -/
theorem rndWritesADrawnByteUnderTheMask : Obligations.RndWritesADrawnByteUnderTheMask := by
  intro x kk s
  have masked : RegsAfter x ((Config.randomByte s.randDraws).toNat &&& kk.toNat) s
      (s.setV x (Config.randomByte s.randDraws &&& kk)) :=
    BitVec.toNat_and (Config.randomByte s.randDraws) kk ▸ regsAfter_setV s x _
  exact ⟨_, rfl, rfl, masked, advance_advancedBy rfl, by simp⟩

end Sys2Proof.Safety
end

section
/-!
Display (43_display.md): the sprite engine at a state's own sprite, the four things a drawing leaves behind said once;
from them what one DRW does (R171) and what a second one of the same sprite undoes (R172).
-/

namespace Sys2Proof.Safety

open Sys2Proof.Machine

/-! ## Pixels and bits -/

/-- A pixel is named by its row mod 32 and its column mod 64 (10_state.md R30). -/
theorem pixel_congr {r c r' c' : Nat} (fb : FrameBuffer) (hr : r % 32 = r' % 32) (hc : c % 64 = c' % 64) :
    pixel fb r c = pixel fb r' c' := by
  simp only [pixel, Config.fbRows, Config.fbCols, hr, hc]

/-- A byte is nonzero exactly when one of its bits is 1. -/
theorem exists_getMsbD_iff (b : Byte) : (∃ j < 8, b.getMsbD j = true) ↔ b ≠ 0 := by
  constructor
  · rintro ⟨j, -, hj⟩ rfl
    simp at hj
  · intro hb
    by_contra hnone
    push Not at hnone
    refine hb (BitVec.eq_of_getMsbD_eq fun j hj => ?_)
    rw [Bool.eq_false_iff.2 (hnone j hj)]
    simp

theorem flagByte_eq_one_iff (b : Bool) : flagByte b = 1 ↔ b = true := by cases b <;> decide

/-! ## The sprite at `I` -/

section
variable (s : State) (ox oy n : Nat)

/-- Each bit is XORed onto its pixel. -/
theorem pixel_drawSprite_hit (hn : n ≤ 32) {i j : Nat} (hi : i < n) (hj : j < 8) :
    pixel (s.drawSprite ox oy n).fb (oy + i) (ox + j) =
      (pixel s.fb (oy + i) (ox + j) ^^ (s.read (s.i.toNat + i)).getMsbD j) :=
  drawRows_hit ox _ (by rwa [length_readBytes]) oy _ i j _ (by rw [getElem?_readBytes, if_pos hi]) hj

/-- Pixels under no bit of the sprite stay. -/
theorem pixel_drawSprite_other {r c : Nat}
    (h : ∀ i j : Nat, i < n → j < 8 → ¬((oy + i) % 32 = r % 32 ∧ (ox + j) % 64 = c % 64)) :
    pixel (s.drawSprite ox oy n).fb r c = pixel s.fb r c := by
  refine drawRows_other ox _ oy _ r c fun i j hi hj hrc => ?_
  rw [length_readBytes] at hi
  exact h i j hi hj ⟨hrc.1.symm, hrc.2.symm⟩

/-- The drawing changes something exactly when some byte of the sprite is nonzero. -/
theorem drawSprite_changed :
    (s.drawSprite ox oy n).changed = true ↔ ∃ i : Nat, i < n ∧ s.read (s.i.toNat + i) ≠ 0 := by
  calc
    _ ↔ ∃ i < n, ∃ j < 8, (s.read (s.i.toNat + i)).getMsbD j = true := by
      rw [State.drawSprite, drawRows_changed]
      simp [getElem?_readBytes]
    _ ↔ _ := exists_congr fun i => and_congr_right fun _ => exists_getMsbD_iff _

/-- The drawing collides exactly when some 1 bit lands on a set pixel. -/
theorem drawSprite_collided (hn : n ≤ 32) :
    (s.drawSprite ox oy n).collided = true ↔
      ∃ i j : Nat, i < n ∧ j < 8 ∧ (s.read (s.i.toNat + i)).getMsbD j = true ∧
        pixel s.fb (oy + i) (ox + j) = true := by
  rw [State.drawSprite, drawRows_collided ox _ (by rwa [length_readBytes])]
  simp [getElem?_readBytes]

end

/-! ## The same sprite over its own drawing (R172) -/

section
variable {s u : State} {ox oy n : Nat} (hn : n ≤ 32) (hfb : u.fb = (s.drawSprite ox oy n).fb)
  (hread : ∀ a : Nat, u.read a = s.read a) (hi : u.i = s.i)
include hn hfb hread hi

/-- Where a bit lands it is XORed twice, and every other pixel stays twice. -/
theorem drawSprite_twice_fb : (u.drawSprite ox oy n).fb = s.fb := by
  refine fb_ext fun r c => ?_
  by_cases hrc : ∃ i j : Nat, i < n ∧ j < 8 ∧ (oy + i) % 32 = r % 32 ∧ (ox + j) % 64 = c % 64
  · obtain ⟨i, j, hin, hj, hr, hc⟩ := hrc
    rw [← pixel_congr _ hr hc, ← pixel_congr _ hr hc, pixel_drawSprite_hit u ox oy n hn hin hj, hfb,
      pixel_drawSprite_hit s ox oy n hn hin hj, hread, hi, Bool.xor_assoc, Bool.xor_self, Bool.xor_false]
  · have hother : ∀ i j : Nat, i < n → j < 8 → ¬((oy + i) % 32 = r % 32 ∧ (ox + j) % 64 = c % 64) :=
      fun i j hin hj hp => hrc ⟨i, j, hin, hj, hp⟩
    rw [pixel_drawSprite_other u ox oy n hother, hfb, pixel_drawSprite_other s ox oy n hother]

/-- A 1 bit finds its pixel set exactly when the first drawing found it false. -/
theorem drawSprite_twice_collided :
    (u.drawSprite ox oy n).collided = true ↔
      ∃ i j : Nat, i < n ∧ j < 8 ∧ (s.read (s.i.toNat + i)).getMsbD j = true ∧
        pixel s.fb (oy + i) (ox + j) = false := by
  rw [drawSprite_collided u ox oy n hn, hi]
  refine exists₂_congr fun i j => and_congr_right fun hin => and_congr_right fun hj => ?_
  rw [hread]
  refine and_congr_right fun hbit => ?_
  rw [hfb, pixel_drawSprite_hit s ox oy n hn hin hj, hbit, Bool.xor_true, Bool.not_eq_true']

end

/-! ## The instructions -/

/-- DRW with every byte of its sprite in memory. -/
theorem exec_drw_of_fits {s : State} (x y : RegIdx) {n : Fin 16} (h : n.val = 0 ∨ s.i.toNat + n.val ≤ 0x1000) :
    exec (.drw x y n) s =
      .next (s.putDrawing (s.drawSprite (s.getV x).toNat (s.getV y).toNat n.val)).advance := by
  rw [exec, execDrw, checkBlock_ok h, orRaise_ok]

/-- DRW with a byte of its sprite past memory. -/
theorem exec_drw_of_past {s : State} (x y : RegIdx) {n : Fin 16} (hn : 0 < n.val)
    (h : 0x1000 < s.i.toNat + n.val) :
    exec (.drw x y n) s = raise (.addressOutOfRange (max s.i.toNat 0x1000)) s := by
  have hpast : ¬(n.val = 0 ∨ s.i.toNat + n.val ≤ Config.memSize) := by
    simp only [Config.memSize]
    omega
  rw [exec, execDrw, checkBlock_error hpast, orRaise_error, Config.memSize]

/-- After DRW, VF holds the collision flag. -/
theorem vf_putDrawing_advance (s : State) (d : DrawState) :
    (s.putDrawing d).advance.getV 15 = flagByte d.collided := by
  rw [getV_advance, getV_putDrawing, if_pos rfl]

/-- A sprite is at most 15 rows tall, so no two of its rows fall on one row of the frame buffer. -/
theorem spriteHeight_le (n : Fin 16) : n.val ≤ 32 := by omega

/-- Settles O44: the buffer is replaced by `clearFb`. -/
theorem clsClearsEveryPixel : Obligations.ClsClearsEveryPixel :=
  fun _ => ⟨_, rfl, pixel_clearFb, rfl, advance_advancedBy rfl, by simp⟩

/-- Settles O45: the parts of the drawing are those of the sprite at `I`, and past memory there is only the fault. -/
theorem drwXorsTheSprite : Obligations.DrwXorsTheSprite := by
  intro x y n s
  constructor
  · intro hfits
    have hcollided := drawSprite_collided s (s.getV x).toNat (s.getV y).toNat n.val (spriteHeight_le n)
    refine ⟨_, exec_drw_of_fits x y hfits,
      fun i j hi hj => pixel_drawSprite_hit s _ _ _ (spriteHeight_le n) hi hj,
      fun r c hother => pixel_drawSprite_other s _ _ _ hother,
      fun k hk => ?others, fun hhit => ?collision, fun hnone => ?noCollision, ?dirty,
      advance_advancedBy rfl, by simp⟩
    case others => rw [getV_advance, getV_putDrawing, if_neg hk]
    case collision =>
      rw [vf_putDrawing_advance, hcollided.2 hhit]
      rfl
    case noCollision =>
      rw [vf_putDrawing_advance, Bool.eq_false_iff.2 (mt hcollided.1 hnone)]
      rfl
    case dirty => rw [advance_dirty, putDrawing_dirty, Bool.or_eq_true, drawSprite_changed]
  · rintro ⟨hn, hpast⟩
    rw [exec_drw_of_past x y hn hpast]
    exact raise_haltsWith _ s

/-- Settles O46: the second DRW draws the sprite of `s` over its own drawing. -/
theorem drawingTwiceRestoresTheFrameBuffer : Obligations.DrawingTwiceRestoresTheFrameBuffer := by
  intro x y n s t u hfits hexec hfb hread hi hx hy
  rw [exec_drw_of_fits x y hfits] at hexec
  cases hexec
  rw [← hi] at hfits
  refine ⟨_, exec_drw_of_fits x y hfits, ?_, ?_⟩
  · rw [advance_fb, putDrawing_fb, hx, hy]
    exact drawSprite_twice_fb (spriteHeight_le n) hfb hread hi
  · rw [vf_putDrawing_advance, flagByte_eq_one_iff, hx, hy]
    exact drawSprite_twice_collided (spriteHeight_le n) hfb hread hi

end Sys2Proof.Safety
end

section
/-!
Keys and timer registers (44_keys_timers.md): what a key skip, a key wait and a timer copy do in each of their cases.
-/

namespace Sys2Proof.Safety

open Sys2Proof.Machine

/-! ## Key skips (R180, R181, R186) -/

section
variable {x : RegIdx} {s : State}

theorem exec_skp_of_key {k : Fin 16} (h : (s.getV x).toNat = k.val) :
    exec (.skp x) s = .next (s.skip s.keys[k]) := by
  rw [exec, execSkp, keyAt_ok s _ k h, orRaise_ok]

theorem exec_sknp_of_key {k : Fin 16} (h : (s.getV x).toNat = k.val) :
    exec (.sknp x) s = .next (s.skip !s.keys[k]) := by
  rw [exec, execSknp, keyAt_ok s _ k h, orRaise_ok]

theorem exec_skp_of_past (h : 15 < (s.getV x).toNat) :
    exec (.skp x) s = raise (.keyIndexOutOfRange (s.getV x)) s := by
  rw [exec, execSkp, keyAt_error s _ h, orRaise_error]

theorem exec_sknp_of_past (h : 15 < (s.getV x).toNat) :
    exec (.sknp x) s = raise (.keyIndexOutOfRange (s.getV x)) s := by
  rw [exec, execSknp, keyAt_error s _ h, orRaise_error]

end

/-- A skip on the negation of a bit advances by 2 where the bit is set, else by 4. -/
theorem next_skip_not_advancedBy (s : State) (down : Bool) :
    ∃ t, (.next (s.skip !down) : Result) = .next t ∧ UnchangedBut [.pc] s t ∧
      AdvancedBy (if down = true then 2 else 4) s t := by
  have hcond : (!down) = true ↔ ¬down = true := by rw [Bool.not_eq_true', Bool.not_eq_true]
  rw [← ite_not]
  exact next_skip_advancedBy s hcond

/-- Settles O47: up to 15 the skip is on the latch bit or its negation, and above 15 there is only the fault. -/
theorem keySkipsTestTheLatch : Obligations.KeySkipsTestTheLatch := by
  intro x s
  constructor
  · intro k hk
    rw [exec_skp_of_key hk, exec_sknp_of_key hk]
    exact ⟨next_skip_advancedBy s Iff.rfl, next_skip_not_advancedBy s s.keys[k]⟩
  · intro hpast
    rw [exec_skp_of_past hpast, exec_sknp_of_past hpast]
    exact ⟨raise_haltsWith _ s, raise_haltsWith _ s⟩

/-! ## Key wait (R183) -/

theorem exec_ldVxK_of_key (x : RegIdx) {s : State} {k : Fin 16} (h : s.lowestKey = some k) :
    exec (.ldVxK x) s = .next (s.setV x (trunc8 k.val)).advance := by
  rw [exec, execLdVxK, h]

theorem exec_ldVxK_of_noKey (x : RegIdx) {s : State} (h : s.lowestKey = none) : exec (.ldVxK x) s = .next s := by
  rw [exec, execLdVxK, h]

/-- A key number is a byte, so storing it loses nothing. -/
theorem toNat_trunc8_key (k : Fin 16) : (trunc8 k.val).toNat = k.val := by
  rw [toNat_trunc8]
  omega

/-- Settles O48: the scan answers the least key that is down, or none. -/
theorem keyWaitTakesTheLowestKey : Obligations.KeyWaitTakesTheLowestKey := by
  intro x s
  constructor
  · intro k hdown hleast
    rw [exec_ldVxK_of_key x (lowestKey_some.2 ⟨hdown, hleast⟩)]
    exact next_setV_spec s x (toNat_trunc8_key k)
  · intro hnone
    exact exec_ldVxK_of_noKey x (lowestKey_none.2 hnone)

/-! ## Timer registers (R182, R184, R185) -/

/-- Settles O49: each copy writes its one destination and advances; no frame lets the ports change, so nothing is emitted. -/
theorem timerRegistersAreCopied : Obligations.TimerRegistersAreCopied := by
  intro x s
  have readsDt := next_setV_spec s x (b := s.dt) rfl
  have writesDt : UnchangedBut [.dt, .pc] s (s.setDt (s.getV x)).advance := by simp
  have writesSt : UnchangedBut [.st, .pc] s (s.setSt (s.getV x)).advance := by simp
  exact ⟨readsDt, ⟨_, rfl, rfl, advance_advancedBy rfl, writesDt⟩, ⟨_, rfl, rfl, advance_advancedBy rfl, writesSt⟩⟩

end Sys2Proof.Safety
end

section
/-!
Address register and memory transfers (45_index_memory.md): what a checked block does where it fits in memory and where
it does not, what a stored block leaves in memory and a loaded one in the registers.
-/

namespace Sys2Proof.Safety

open Sys2Proof.Machine

/-! ## The address register (R190 to R192) -/

/-- A number that fits in 16 bits is not reduced. -/
theorem toNat_trunc16_of_lt {n : Nat} (h : n < 0x10000) : (trunc16 n).toNat = n := by
  rw [toNat_trunc16, Nat.mod_eq_of_lt h]

/-- A glyph's address fits in 16 bits for every byte, so not masking it loses nothing. -/
theorem toNat_glyphAddress (b : Byte) : (glyphAddress b).toNat = b.toNat * 5 := by
  have hb := b.isLt
  have hfits : b.toNat * 5 < 0x10000 := by omega
  exact toNat_trunc16_of_lt hfits

/-- What the instructions that write `I` share. -/
theorem next_setI_spec (s : State) {w : Word} {result : Nat} (h : w.toNat = result) :
    ∃ t, (.next (s.setI w).advance : Result) = .next t ∧ t.i.toNat = result ∧ AdvancedBy 2 s t ∧
      UnchangedBut [.i, .pc] s t :=
  ⟨_, rfl, h, advance_advancedBy rfl, by simp⟩

/-- Settles O50: each instruction writes one word to `I`, `nnn` itself or one with the value of `toNat_trunc16` or
`toNat_glyphAddress`. -/
theorem addressRegisterInstructionsWriteI : Obligations.AddressRegisterInstructionsWriteI := by
  intro x nnn s
  have loaded : UnchangedBut [.i, .pc] s (s.setI nnn).advance := by simp
  exact ⟨⟨_, rfl, rfl, advance_advancedBy rfl, loaded⟩, next_setI_spec s (toNat_trunc16 _),
    next_setI_spec s (toNat_glyphAddress (s.getV x))⟩

/-! ## Blocks inside and past memory (20_memory.md R58) -/

/-- An instruction that checks a block whose last address is past memory does nothing but halt, with the first bad
address. -/
theorem checkedBlock_haltsWith {a n : Nat} (s : State) (go : Unit → Result) (h : 0x1000 ≤ a + n) :
    ∃ t, orRaise (checkBlock a (n + 1)) s go = .next t ∧ HaltsWith (.addressOutOfRange (max a 0x1000)) s t := by
  have hpast : ¬(n + 1 = 0 ∨ a + (n + 1) ≤ Config.memSize) := by
    simp only [Config.memSize]
    omega
  rw [checkBlock_error hpast, orRaise_error]
  exact raise_haltsWith _ s

/-- Outside a stored block a canonical memory reads as before. -/
theorem read_store_outside {s : State} (hs : MemoryCanonical s) {a c : Nat} {bs : List Byte}
    (hfit : a + bs.length ≤ Config.memSize) (hc : c < a ∨ a + bs.length ≤ c) :
    (s.store a bs).read c = s.read c := by
  rw [read_store hs hfit]
  split
  · have habove : bs.length ≤ c - a := by omega
    rw [List.getElem?_eq_none habove, Option.getD_none]
  · rfl

/-- One past a block inside memory fits in 16 bits. -/
theorem toNat_pastBlock {s : State} {x : RegIdx} (h : s.i.toNat + x.val < 0x1000) :
    (s.pastBlock x).toNat = s.i.toNat + x.val + 1 :=
  toNat_trunc16_of_lt (by omega)

/-! ## Decimal digits (R193) -/

/-- A number up to the value of some byte is a byte. -/
theorem toNat_trunc8_of_le {n : Nat} {b : Byte} (h : n ≤ b.toNat) : (trunc8 n).toNat = n := by
  have hb := b.isLt
  rw [toNat_trunc8, Nat.mod_eq_of_lt (by omega)]

/-- Each stored digit is read back at its place: no digit exceeds the value it is taken from. -/
theorem toNat_read_storedDigit {s : State} (hs : MemoryCanonical s) {b : Byte} {a k n : Nat}
    (hfit : a + 3 ≤ Config.memSize) (hk : (decimalDigits b)[k]? = some (trunc8 n)) (hn : n ≤ b.toNat) :
    ((s.store a (decimalDigits b)).read (a + k)).toNat = n := by
  rw [read_store_of_getElem? hs hfit hk, toNat_trunc8_of_le hn]

theorem exec_ldB_of_fits {x : RegIdx} {s : State} (hfit : s.i.toNat + 3 ≤ Config.memSize) :
    exec (.ldB x) s = .next (s.store s.i.toNat (decimalDigits (s.getV x))).advance := by
  rw [exec, execLdB, checkBlock_ok (.inr hfit), orRaise_ok]

/-- Settles O51: the three stored bytes are the digits of `toNat_read_storedDigit`. -/
theorem bcdStoresThreeDigits : Obligations.BcdStoresThreeDigits := by
  intro x s hs
  constructor
  · intro hend
    have hundreds : (s.getV x).toNat / 100 ≤ (s.getV x).toNat := Nat.div_le_self _ _
    have htens : (s.getV x).toNat / 10 % 10 ≤ (s.getV x).toNat := (Nat.mod_le _ _).trans (Nat.div_le_self _ _)
    have hones : (s.getV x).toNat % 10 ≤ (s.getV x).toNat := Nat.mod_le _ _
    exact ⟨_, exec_ldB_of_fits hend, toNat_read_storedDigit hs hend (k := 0) rfl hundreds,
      toNat_read_storedDigit hs hend (k := 1) rfl htens, toNat_read_storedDigit hs hend (k := 2) rfl hones,
      fun a ha => read_store_outside hs hend ha, advance_advancedBy rfl, by simp⟩
  · exact checkedBlock_haltsWith (n := 2) s _

/-! ## Register blocks (R194 to R196) -/

/-- Settles O52: the stored block is `V[0]` to `V[x]`. -/
theorem blockStoreWritesRegistersToMemory : Obligations.BlockStoreWritesRegistersToMemory := by
  intro x s hs
  constructor
  · intro hend
    have hexec := exec_storeBlock_of_fits (x := x) (s := s) hend
    have hfit : s.i.toNat + (s.regsUpTo x).length ≤ Config.memSize := by rwa [length_regsUpTo]
    refine ⟨_, hexec, fun k hk => read_of_exec_storeBlock hs hend hk hexec, fun a ha => ?outside,
      toNat_pastBlock hend, advance_advancedBy rfl, by simp⟩
    case outside =>
      rw [read_advance, read_setI]
      exact read_store_outside hs hfit (by rwa [length_regsUpTo])
  · exact checkedBlock_haltsWith s _

theorem exec_loadBlock_of_fits {x : RegIdx} {s : State} (hfit : s.i.toNat + (x.val + 1) ≤ Config.memSize) :
    exec (.loadBlock x) s =
      .next ((s.setRegs (setRegsFrom s.v 0 (s.readBytes s.i.toNat (x.val + 1)))).setI (s.pastBlock x)).advance := by
  rw [exec, execLoadBlock, checkBlock_ok (.inr hfit), orRaise_ok]

/-- The registers after a block from `a` on was loaded into `V[0]` to `V[x]`. -/
theorem getElem_loadedRegs (s : State) (x k : RegIdx) (a : Nat) :
    (setRegsFrom s.v 0 (s.readBytes a (x.val + 1)))[k] = if k ≤ x then s.read (a + k.val) else s.getV k := by
  by_cases hk : k ≤ x
  · have hlen : k.val < x.val + 1 := Nat.lt_succ_of_le hk
    rw [if_pos hk, getElem_setRegsFrom, if_pos (Nat.zero_le _), Nat.sub_zero, getElem?_readBytes, if_pos hlen,
      Option.getD_some]
  · rw [if_neg hk]
    exact setRegsFrom_above s.v x k _ (length_readBytes s _ _) hk

/-- Settles O53: the registers are those of `getElem_loadedRegs`. -/
theorem blockLoadReadsRegistersFromMemory : Obligations.BlockLoadReadsRegistersFromMemory := by
  intro x s
  constructor
  · intro hend
    exact ⟨_, exec_loadBlock_of_fits hend, fun k => getElem_loadedRegs s x k s.i.toNat, toNat_pastBlock hend,
      advance_advancedBy rfl, by simp⟩
  · exact checkedBlock_haltsWith s _

/-- Settles O54: the load reads, from the rewound `I` on, the bytes the store left there. -/
theorem blockStoreThenLoadRestores : Obligations.BlockStoreThenLoadRestores := by
  intro x s t u hs hend hstore hread hi
  obtain ⟨r, hload, hregs, hir, -, -⟩ := (blockLoadReadsRegistersFromMemory x u).1 (by rwa [hi])
  refine ⟨r, hload, fun k hk => ?_, by rw [hir, hi]⟩
  rw [hregs k, if_pos hk, hi, hread]
  exact read_of_exec_storeBlock hs hend hk hstore

end Sys2Proof.Safety
end

section
/-!
Faults and the step (60_exceptions.md R200 to R208, R219): everything an instruction can do to `STATUS`, said once; from
it follow that a fault is precise and has the one cause of its instruction, and that every step answers a next state.
-/

namespace Sys2Proof.Safety

open Sys2Proof.Machine

/-! ## A checked operation and the cause it can raise (R200) -/

/-- An outcome over `s` is a state with the same `STATUS`, or the fault of a cause with this code, taken in `s`. -/
def KeepsStatusOrRaises (code : Nat) (s : State) (r : Result) : Prop :=
  (∃ t, r = .next t ∧ t.status = s.status) ∨ ∃ c : FaultCause, c.code = code ∧ r = raise c s

/-- A checked operation has only its own error to raise, if what is done with its value keeps `STATUS`. -/
theorem keepsStatusOrRaises_orRaise {α : Type} {code : Nat} {r : Except FaultCause α} {s : State} {go : α → Result}
    (herror : ∀ c, r = .error c → c.code = code) (hgo : ∀ a, r = .ok a → ∃ t, go a = .next t ∧ t.status = s.status) :
    KeepsStatusOrRaises code s (orRaise r s go) := by
  cases r with
  | ok a => exact .inl (hgo a rfl)
  | error c => exact .inr ⟨c, herror c rfl, rfl⟩

section
variable {s : State} {c : FaultCause}

theorem code_of_checkBlock {a len : Nat} (h : checkBlock a len = .error c) : c.code = 1 := by
  obtain ⟨-, hok⟩ | ⟨-, herr⟩ := checkBlock_cases a len
  · cases hok.symm.trans h
  · cases herr.symm.trans h
    rfl

theorem code_of_push {w : Word} (h : s.push w = .error c) : c.code = 2 := by
  obtain ⟨_, hok⟩ | ⟨-, herr⟩ := push_cases h
  · cases hok
  · cases herr
    rfl

theorem code_of_pop (h : s.pop = .error c) : c.code = 3 := by
  obtain ⟨k, q, -, -, hok⟩ | ⟨-, herr⟩ := pop_cases h
  · cases hok
  · cases herr
    rfl

theorem code_of_keyAt {b : Byte} (h : s.keyAt b = .error c) : c.code = 4 := by
  obtain ⟨d, hok⟩ | herr := keyAt_cases s b
  · cases hok.symm.trans h
  · cases herr.symm.trans h
    rfl

theorem push_status {u : State} {w : Word} (h : s.push w = .ok u) : u.status = s.status := by
  obtain ⟨_, hok⟩ | ⟨-, herr⟩ := push_cases h
  · cases hok
    rfl
  · cases herr

theorem pop_status {p : Word × State} (h : s.pop = .ok p) : p.2.status = s.status := by
  obtain ⟨k, q, -, -, hok⟩ | ⟨-, herr⟩ := pop_cases h
  · cases hok
    rfl
  · cases herr

end

/-! ## What an instruction can do to `STATUS` -/

/-- Every instruction leaves `STATUS` alone or raises a cause with the code R200 lists for it: first the instructions
that always complete, then those with a check, by what they check. -/
theorem exec_keepsStatusOrRaises (i : Instr) (s : State) : KeepsStatusOrRaises (faultCode i) s (exec i s) := by
  cases i with
  | cls | jp | jpV0 | seImm | sneImm | seReg | sneReg | ldImm | addImm | ldReg | orReg | andReg | xorReg | addReg
  | subReg | subnReg | shr | shl | rnd | ldI | addI | ldF | ldVxDt | ldDtVx | ldStVx =>
    exact .inl ⟨_, rfl, rfl⟩
  | ldVxK x =>
    cases hk : s.lowestKey with
    | some k => exact .inl ⟨_, exec_ldVxK_of_key x hk, rfl⟩
    | none => exact .inl ⟨_, exec_ldVxK_of_noKey x hk, rfl⟩
  | drw | ldB | storeBlock | loadBlock =>
    exact keepsStatusOrRaises_orRaise (fun _ => code_of_checkBlock) fun _ _ => ⟨_, rfl, rfl⟩
  | call => exact keepsStatusOrRaises_orRaise (fun _ => code_of_push) fun u hu =>
    ⟨_, rfl, by rw [setPc_status, push_status hu]⟩
  | ret => exact keepsStatusOrRaises_orRaise (fun _ => code_of_pop) fun p hp =>
    ⟨_, rfl, by rw [setPc_status, pop_status hp]⟩
  | skp | sknp => exact keepsStatusOrRaises_orRaise (fun _ => code_of_keyAt) fun _ _ => ⟨_, rfl, rfl⟩

/-- An instruction that leaves a running core halted has raised its own cause. -/
theorem exec_raises_of_halts {i : Instr} {s t : State} (hs : s.status = .running) (h : exec i s = .next t)
    (ht : t.status ≠ .running) : ∃ c : FaultCause, c.code = faultCode i ∧ raise c s = .next t := by
  obtain ⟨u, hu, hstatus⟩ | ⟨c, hcode, hc⟩ := exec_keepsStatusOrRaises i s
  · cases hu.symm.trans h
    exact absurd (hstatus.trans hs) ht
  · exact ⟨c, hcode, hc.symm.trans h⟩

/-- Settles O18: the instruction ended in a fault, which writes `STATUS` alone. -/
theorem faultingInstructionWritesOnlyStatus : Obligations.FaultingInstructionWritesOnlyStatus := by
  intro i s t hs h ht
  obtain ⟨c, -, hc⟩ := exec_raises_of_halts hs h ht
  obtain ⟨u, hu, hhalts⟩ := raise_haltsWith c s
  cases hu.symm.trans hc
  exact ⟨c, hhalts⟩

/-- Settles O19: the record holds the cause the instruction raised. -/
theorem eachInstructionRaisesOnlyItsCause : Obligations.EachInstructionRaisesOnlyItsCause := by
  intro i s t r hs h hr
  obtain ⟨c, hcode, hc⟩ := exec_raises_of_halts hs h (by simp [hr])
  cases hc
  cases hr
  exact hcode

/-! ## Every part of a step answers a next state (R205) -/

theorem exec_next (i : Instr) (s : State) : ∃ t, exec i s = .next t := by
  obtain ⟨t, ht, -⟩ | ⟨c, -, hc⟩ := exec_keepsStatusOrRaises i s
  · exact ⟨t, ht⟩
  · exact ⟨_, hc.trans (raise_eq c s)⟩

theorem unrecognised_next (policy : IllegalPolicy) (w : Word) (s : State) :
    ∃ t, unrecognised policy w s = .next t := by
  cases policy with
  | stall => exact ⟨s, rfl⟩
  | fault => exact ⟨_, raise_eq _ s⟩

theorem executeWord_next (w : Word) (s : State) : ∃ t, executeWord w s = .next t := by
  unfold executeWord
  cases decodeWord w with
  | ok i => exact exec_next i s
  | error e => exact unrecognised_next s.params.illegalPolicy w s

theorem cycle_next (ticks : Bool) (s : State) : ∃ t, cycle ticks s = .next t := by
  cases hs : s.status with
  | halted r => exact ⟨s, cycle_halted hs ticks⟩
  | running =>
    cases hf : s.fetch with
    | error c => exact ⟨_, (cycle_fetchFault hs hf ticks).trans (raise_eq c s)⟩
    | ok w =>
      obtain ⟨u, hu⟩ := executeWord_next w s
      exact ⟨_, by rw [cycle_word hs hf, hu, endCycle_next]⟩

theorem hostMove_next (m : HostMove) (s : State) : ∃ t, hostMove m s = .next t := by
  cases m with
  | cycle ticks => exact cycle_next ticks s
  | keyDown | keyUp | load | readStatus => exact ⟨_, rfl⟩

/-- Settles O10: a step is a host move or the cycle of an empty inbox. -/
theorem everyStepAnswersANextState : Obligations.EveryStepAnswersANextState := by
  intro s
  cases hin : s.inbox with
  | nil => exact step_noMove hin ▸ cycle_next _ _
  | cons m rest => exact step_move hin ▸ hostMove_next m _

/-! ## A halted core (R208) -/

/-- What a step can change on a halted core. -/
theorem step_unchangedBut_of_halted {s t : State} {r : FaultRecord} (hs : s.status = .halted r)
    (h : step s = .next t) : UnchangedBut [.keys, .mem, .pc, .i, .ports] s t := by
  have htaken (rest) : UnchangedBut [.keys, .mem, .pc, .i, .ports] s (s.setInbox rest) := by simp
  obtain ⟨ticks, s', hc, hs'⟩ | ⟨rest, k, down, rfl⟩ | ⟨rest, image, rfl⟩ | ⟨rest, rfl⟩ := step_cases h
  · have hidle : s'.status = .halted r ∧ UnchangedBut [.keys, .mem, .pc, .i, .ports] s s' := by
      obtain ⟨rest, -, rfl⟩ | ⟨-, rfl⟩ := hs' <;> exact ⟨hs, by simp⟩
    obtain ⟨hhalted, hframe⟩ := hidle
    cases (cycle_halted hhalted ticks).symm.trans hc
    exact hframe
  · exact (htaken rest).trans ((keyEvent_unchangedBut k down _).mono (by simp))
  · exact (htaken rest).trans ((loadImage_unchangedBut image _).mono (by simp))
  · exact (htaken rest).trans ((readStatus_unchangedBut _).mono (by simp))

/-- Settles O16: `STATUS` is not among what a step can change on a halted core. -/
theorem haltedIsNeverLeft : Obligations.HaltedIsNeverLeft := by
  intro s t r hs h
  have hframe := step_unchangedBut_of_halted hs h
  have hstatus : t.status = s.status := hframe .status (by decide)
  exact ⟨hstatus.trans hs, hframe⟩

/-! ## The place of the tick (R219) -/

/-- Settles O14: the step is the executed word and then the end of its cycle. -/
theorem tickEndsTheCycleThatRequestsIt : Obligations.TickEndsTheCycleThatRequestsIt := by
  intro s u w ticks rest hs hin hf hu
  have hstep : step s = .next (if ticks && u.status.isRunning then tick u else u) := by
    rw [step_cycle hin, cycle_word (s := s.setInbox rest) hs hf, hu, endCycle_next]
  rw [hstep]
  constructor
  · rintro ⟨hticks, hrunning⟩
    rw [hticks, isRunning_iff.2 hrunning, Bool.and_self, if_pos rfl]
  · intro hnone
    have hidle : ¬(ticks && u.status.isRunning) = true := by
      rw [Bool.and_eq_true, isRunning_iff]
      rintro ⟨rfl, hrunning⟩
      exact hnone.elim nofun fun hhalted => hhalted hrunning
    rw [if_neg hidle]

end Sys2Proof.Safety
end

section
/-!
The timer countdown engine (60_exceptions.md R215 to R218): one tick as a single update of the state.
-/

namespace Sys2Proof.Safety

open Sys2Proof.Machine

/-! ## Several events at once -/

/-- Send events on the output ports, in order. -/
def emitAll (s : State) (es : List PortEvent) : State := { s with emitted := s.emitted ++ es }

theorem emitAll_nil (s : State) : emitAll s [] = s := by
  rw [emitAll, List.append_nil]

theorem emitAll_singleton (s : State) (e : PortEvent) : emitAll s [e] = s.emit e := rfl

/-- The tone of a tick that finds this value in `ST` (R216). -/
def toneEvents (st : Byte) : List PortEvent :=
  if st.toNat = 1 then [.tone (Config.toneMs 1)] else []

/-- The frame of a tick that finds `DIRTY` and this buffer (R217). -/
def frameEvents (dirty : Bool) (fb : FrameBuffer) : List PortEvent :=
  if dirty = true then [.frame fb] else []

/-! ## The three parts of a tick -/

/-- A timer one tick later, with floor at zero. -/
def timerAfterTick (b : Byte) : Byte := trunc8 (b.toNat - 1)

theorem toNat_timerAfterTick (b : Byte) : (timerAfterTick b).toNat = b.toNat - 1 :=
  toNat_trunc8_of_le (Nat.sub_le _ _)

/-- A timer at zero stays there. -/
theorem timerAfterTick_of_zero {b : Byte} (h : ¬b.toNat > 0) : timerAfterTick b = b :=
  BitVec.eq_of_toNat_eq (by rw [toNat_timerAfterTick]; omega)

theorem tickDelay_eq (s : State) : tickDelay s = s.setDt (timerAfterTick s.dt) := by
  by_cases h : s.dt.toNat > 0
  · rw [tickDelay, if_pos h, timerAfterTick]
  · rw [tickDelay, if_neg h, timerAfterTick_of_zero h]
    rfl

/-- The tone comes with the decrement that reaches zero, which starts from 1. -/
theorem tickSound_eq (s : State) :
    tickSound s = emitAll (s.setSt (timerAfterTick s.st)) (toneEvents s.st) := by
  by_cases h : s.st.toNat > 0
  · by_cases h1 : s.st.toNat = 1
    · have hone : s.st = 1 := BitVec.eq_of_toNat_eq h1
      rw [tickSound, if_pos h, if_pos (by omega), toneEvents, if_pos h1, emitAll_singleton, timerAfterTick, hone]
    · rw [tickSound, if_pos h, if_neg (by omega), toneEvents, if_neg h1, emitAll_nil, timerAfterTick]
  · rw [tickSound, if_neg h, toneEvents, if_neg (by omega), emitAll_nil, timerAfterTick_of_zero h]
    rfl

theorem tickFrame_eq (s : State) : tickFrame s = (emitAll s (frameEvents s.dirty s.fb)).setDirty false := by
  by_cases h : s.dirty = true
  · rw [tickFrame, if_pos h, frameEvents, if_pos h, emitAll_singleton]
  · rw [tickFrame, if_neg h, frameEvents, if_neg h, emitAll_nil, ← Bool.eq_false_of_not_eq_true h]
    rfl

/-- Everything a tick does, in the order of R218. -/
theorem tick_eq (s : State) :
    tick s = (emitAll (emitAll ((s.setDt (timerAfterTick s.dt)).setSt (timerAfterTick s.st)) (toneEvents s.st))
      (frameEvents s.dirty s.fb)).setDirty false := by
  rw [tick, tickDelay_eq, tickSound_eq, tickFrame_eq]
  rfl

/-! ## The statements about the tick -/

theorem toNat_tick_dt (s : State) : (tick s).dt.toNat = s.dt.toNat - 1 := by
  rw [tick_eq]
  exact toNat_timerAfterTick s.dt

theorem toNat_tick_st (s : State) : (tick s).st.toNat = s.st.toNat - 1 := by
  rw [tick_eq]
  exact toNat_timerAfterTick s.st

theorem tick_dirty (s : State) : (tick s).dirty = false := by
  rw [tick_eq, setDirty_dirty]

theorem tick_emitted (s : State) :
    (tick s).emitted = s.emitted ++ toneEvents s.st ++ frameEvents s.dirty s.fb := by
  rw [tick_eq]
  rfl

/-- Settles O22: the parts a tick writes are read off `tick_eq`, the rest is its frame. -/
theorem tickCountsDownAndEmits : Obligations.TickCountsDownAndEmits :=
  fun s => ⟨toNat_tick_dt s, toNat_tick_st s, tick_dirty s, tick_emitted s, tick_inbox s, tick_tickDraws s,
    tick_unchangedBut s⟩

/-- Settles O23, by induction on the number of ticks, the first of which is taken off. -/
theorem timersRunDownToZero : Obligations.TimersRunDownToZero := by
  intro n
  induction n with
  | zero => exact fun s => ⟨rfl, rfl⟩
  | succ n ih =>
    intro s
    obtain ⟨hdt, hst⟩ := ih (tick s)
    rw [toNat_tick_dt] at hdt
    rw [toNat_tick_st] at hst
    rw [Function.iterate_succ_apply]
    omega

end Sys2Proof.Safety
end

section
/-!
The key ports and the status port (60_exceptions.md R222, R227), in every `STATUS`.
-/

namespace Sys2Proof.Safety

open Sys2Proof.Machine

/-! ## The key ports -/

section
variable {s : State} {k : Nat} {down : Bool} {rest : List HostMove}

/-- Both key ports are the one key event. -/
theorem step_keyEvent (h : s.inbox = (if down then HostMove.keyDown k else HostMove.keyUp k) :: rest) :
    step s = .next (keyEvent k down (s.setInbox rest)) := by
  rw [step_move h]
  cases down <;> rfl

/-- An index up to 15 names its latch bit. -/
theorem keyEvent_of_lt (h : k < Config.numKeys) : keyEvent k down s = s.setKey ⟨k, h⟩ down := by
  rw [keyEvent, dif_pos h]

/-- An index above 15 is answered with the error alone. -/
theorem keyEvent_of_ge (h : ¬k < Config.numKeys) : keyEvent k down s = s.emit (.keyError k) := by
  rw [keyEvent, dif_neg h]

/-- A key port takes nothing but its own move from the inbox. -/
theorem keyEvent_inbox : (keyEvent k down s).inbox = s.inbox := by
  by_cases h : k < Config.numKeys
  · rw [keyEvent_of_lt h, setKey_inbox]
  · rw [keyEvent_of_ge h, emit_inbox]

/-- Reading a latch bit after one was written. -/
theorem getElem_setKey_keys (i j : Fin Config.numKeys) :
    (s.setKey i down).keys[j] = if j.val = i.val then down else s.keys[j] := by
  simp only [setKey_keys, Fin.getElem_fin, Vector.getElem_set, eq_comm]

end

/-- Settles O24: below 16 the event is a write of one latch bit, above it an error on the port. -/
theorem keyPortsWriteOneLatchBit : Obligations.KeyPortsWriteOneLatchBit := by
  intro s k down rest hin
  refine ⟨_, step_keyEvent hin, keyEvent_inbox, fun hk => ?_, fun hk => ?_⟩
  · have hlt : k < Config.numKeys := Nat.lt_succ_of_le hk
    rw [keyEvent_of_lt hlt]
    exact ⟨by simp, rfl, getElem_setKey_keys (s := s.setInbox rest) ⟨k, hlt⟩⟩
  · rw [keyEvent_of_ge (Nat.not_lt.2 hk)]
    exact ⟨by simp, rfl⟩

/-! ## The status port -/

/-- Settles O27: the step takes the read and emits `STATUS`, which taking the read leaves alone. -/
theorem statusPortAnswersStatus : Obligations.StatusPortAnswersStatus := by
  intro s rest hin
  have hframe : UnchangedBut [.ports] s (readStatus (s.setInbox rest)) := by simp [readStatus]
  exact ⟨_, step_move hin, rfl, rfl, hframe⟩

end Sys2Proof.Safety
end

section
/-!
The good stop (70_reset_and_hazards.md R255 (b)): a JP to its own address, which every cycle leaves where it is.
-/

namespace Sys2Proof.Safety

open Sys2Proof.Machine

/-! ## A jump to its own address -/

/-- A jump to its own address does nothing. -/
theorem exec_jp_self (s : State) : exec (.jp s.pc) s = .next s := rfl

/-- A cycle of a self-loop does nothing but its tick. -/
theorem SelfLoop.cycle_eq {s : State} (h : SelfLoop s) (ticks : Bool) :
    cycle ticks s = .next (if ticks then tick s else s) := by
  obtain ⟨hs, w, hf, hdec⟩ := h
  rw [cycle_word hs hf, executeWord, hdec]
  simp only [exec_jp_self, endCycle_next, isRunning_iff.2 hs, Bool.and_true]

/-- Being a self-loop is a matter of `STATUS`, `PC` and memory. -/
theorem SelfLoop.congr {ps : List Piece} {s t : State} (hs : SelfLoop s) (h : UnchangedBut ps s t)
    (hstatus : .status ∉ ps) (hpc : .pc ∉ ps) (hmem : .mem ∉ ps) : SelfLoop t := by
  obtain ⟨hrun, w, hf, hdec⟩ := hs
  have hpc' : t.pc = s.pc := h .pc hpc
  exact ⟨(h .status hstatus).trans hrun, w, (h.fetch_eq hpc hmem).trans hf, hpc'.symm ▸ hdec⟩

/-- Settles O17: the cycle is at most a tick, whose frame holds all that makes the self-loop. -/
theorem selfLoopStaysASelfLoop : Obligations.SelfLoopStaysASelfLoop := by
  intro s ticks rest hs hin
  have hloop : SelfLoop (s.setInbox rest) := hs
  have hstep : step s = .next (if ticks then tick (s.setInbox rest) else s.setInbox rest) :=
    (step_cycle hin).trans (hloop.cycle_eq ticks)
  have htaken : UnchangedBut [.dt, .st, .dirty, .ports] s (s.setInbox rest) := by simp
  cases ticks with
  | false => exact ⟨s.setInbox rest, hstep, hloop, htaken, fun _ => rfl⟩
  | true =>
    have hframe : UnchangedBut [.dt, .st, .dirty, .ports] s (tick (s.setInbox rest)) :=
      htaken.trans (tick_unchangedBut _)
    exact ⟨tick (s.setInbox rest), hstep, hs.congr hframe (by decide) (by decide) (by decide), hframe, nofun⟩

end Sys2Proof.Safety
end

section
/-!
The load port (70_reset_and_hazards.md R243 to R245; 60_exceptions.md R228), in every `STATUS`.
-/

namespace Sys2Proof.Safety

open Sys2Proof.Machine

/-! ## The load by its image -/

/-- A step that takes a load is the load. -/
theorem step_load {s : State} {image : Option (List Byte)} {rest : List HostMove} (h : s.inbox = .load image :: rest) :
    step s = .next (loadImage image (s.setInbox rest)) :=
  step_move h

/-- An image of up to `MAX_IMAGE` bytes is put in place (R243). -/
theorem loadImage_of_fits {image : List Byte} (h : image.length ≤ Config.maxImage) (s : State) :
    loadImage (some image) s = (putImage image s).emit (.loadAnswer true) := by
  rw [loadImage, if_pos h]

/-- A load with no image of up to `MAX_IMAGE` bytes is answered with failure alone (R244, R245). -/
theorem loadImage_of_noFit {image : Option (List Byte)}
    (h : ∀ bytes, image = some bytes → Config.maxImage < bytes.length)
    (s : State) : loadImage image s = s.emit (.loadAnswer false) := by
  cases image with
  | none => rfl
  | some bytes => rw [loadImage, if_neg (Nat.not_le.2 (h bytes rfl))]

/-- After the image is put in place memory reads as the store left it: `PC` and `I` are not memory. -/
theorem read_putImage (image : List Byte) (s : State) (a : Nat) :
    (putImage image s).read a = (s.store Config.progBase image).read a := rfl

/-! ## The statements about a load -/

/-- Settles O25: the image is one block stored at 0x200, which ends inside memory. -/
theorem loadCopiesTheImage : Obligations.LoadCopiesTheImage := by
  intro s image rest hs hin hlen
  have hstep : step s = .next ((putImage image (s.setInbox rest)).emit (.loadAnswer true)) := by
    rw [step_load hin, loadImage_of_fits hlen]
  have hcanon : MemoryCanonical (s.setInbox rest) := hs
  have hfit : Config.progBase + image.length ≤ Config.memSize := Nat.add_le_add_left hlen Config.progBase
  refine ⟨_, hstep, rfl, rfl, fun k hk => ?_, fun a ha => ?_, rfl, rfl, by simp [putImage]⟩
  · have hbyte : image[k]? = some image[k] := List.getElem?_eq_getElem hk
    rw [read_emit, read_putImage, read_store_of_getElem? hcanon hfit hbyte, hbyte]
  · rw [read_emit, read_putImage, read_store_outside hcanon hfit ha, read_setInbox]

/-- Settles O26: such a load does nothing but answer failure. -/
theorem failedLoadChangesNothing : Obligations.FailedLoadChangesNothing := by
  intro s image rest hin hnoFit
  have hstep : step s = .next ((s.setInbox rest).emit (.loadAnswer false)) := by
    rw [step_load hin, loadImage_of_noFit hnoFit]
  exact ⟨_, hstep, rfl, rfl, by simp⟩

end Sys2Proof.Safety
end
